-- ==== Sys2Proof/Word.lean ====
section
/-! DEFINITION. The number types of 00_scope.md R7. -/

namespace Sys2Proof

/-- `Byte` of R7: an integer in 0..255, bits numbered 7 (most significant) to 0. -/
abbrev Byte := BitVec 8

/-- `Scalar` of R7: an exact rational number (decision D4 of the spec). -/
abbrev Scalar := Rat

/-- A `Color` of R9: three integers of any value, in the order red, green, blue. -/
structure Colour where
  r : Int
  g : Int
  b : Int
  deriving DecidableEq, Repr

end Sys2Proof
end

