-- ==== Sys2Proof/Config.lean ====
section
/-! DEFINITION. The parameters of 00_scope.md R6, and the free values the spec leaves open. -/

namespace Sys2Proof.Config

/-- Default of the `data_pin` operand of INIT (R6, R54). -/
def dataPin : Int := 23

/-- Default of the `clock_pin` operand of INIT (R6, R54). -/
def clockPin : Int := 24

/-- Default of the `brightness` operand of INIT (R6, R54). -/
def brightness : Scalar := 1

/-- `NUM_LEDS`, the fixed logical LED count (R6, R13). -/
def numLeds : Int := 1

/-- `T_HOLD` (R6): 5 microseconds, in seconds. The pause `D(t)` lasts AT LEAST `t` (R8), so this is the lower bound of R6. -/
def tHold : Scalar := 5 / 1000000

/-- `T_LATCH` (R6, R67, D5): OPEN, a non-negative duration, the same after every frame. It has no body: no proof can see its value. -/
opaque tLatch : NNRat

/-- `MODE_VALUE` (R6, R15, D16): OPEN, an opaque constant. The carrier `Nat` says nothing of the field's type (log 3). -/
opaque modeValue : Nat

/-- FREE VALUE: how much longer than the pauses before it the wall clock has run at the `n`-th draw (R136, D27, U12, U14).
It is non-negative, so readings never decrease. Log 7. -/
opaque lag : Nat → NNRat

/-- FREE VALUE: a pin register after a failed INIT (R24, R81). Log 8. -/
opaque freeInt : Nat → Int

/-- FREE VALUE: BRIGHTNESS after a failed INIT, before it is brought into the legal interval of R14 (R24, R81). Log 8. -/
opaque freeScalar : Nat → Scalar

/-- FREE VALUE: a datapath byte after a failed INIT (R24, R81). Log 8. -/
opaque freeByte : Nat → Byte

/-- FREE VALUE: BITCNT after a failed INIT (R24, R81). Log 8. -/
opaque freeBitcnt : Nat → Fin 9

/-- `RESET_FRAME` (R6, D6): the two readings of "an all-zero frame". -/
inductive ResetFrame where
  | colourZero        -- the frame of the colour (0,0,0): the spec's decision
  | twelveZeroBytes   -- twelve bytes 0x00: the other reading (N3, U15)
  deriving DecidableEq, Repr

end Sys2Proof.Config
end

