-- ==== Sys2Proof/Syntax.lean ====
section
/-! DEFINITION. The operations of 30_encoding.md R56 (one constructor per row of spec/opcode_table.json), and the
commands by which the host selects them (R55). -/

namespace Sys2Proof

/-- The sixteen operations of R56, operands in the table's order. -/
inductive Instr where
  -- micro-operations: no opcode, the steps of EMIT_PIXEL
  | sendBit (b : Bool)
  | sendByte (v : Byte)
  | latch
  -- driver operations
  | init (dataPin clockPin : Int) (brightness : Scalar)
  | emitPixel (r g b : Int)
  | setBrightness (x : Scalar)
  | setColor (r g b index : Int)
  | setColorHex (str : List Char)
  | clear
  | getStatus
  | cleanup
  -- sequencer operations
  | demoSequence (delay : Scalar)
  | breathingEffect (r g b cycles : Int) (duration : Scalar)
  | rainbow (cycles : Int) (speed : Scalar)
  | policeLights (duration speed : Scalar)
  | fadeBetweenColors (color1 color2 : Colour) (steps : Int) (duration : Scalar)
  deriving DecidableEq, Repr

/-- One operand as the host passes it: "abstract typed values, not bit fields" (R55). -/
inductive Value where
  | int (n : Int)            -- channels, indices, counts, pin identifiers
  | scalar (q : Scalar)      -- brightness, durations in seconds
  | str (s : List Char)      -- the hex colour
  | colour (c : Colour)      -- a triple of the fade
  | omitted                  -- an operand the host leaves out (R54)
  deriving DecidableEq, Repr

/-- Format `CMD` (R55): a one-byte opcode, then the operands in order. Operands missing at the end are omitted ones. -/
structure Command where
  opcode   : Byte
  operands : List Value
  deriving DecidableEq, Repr

end Sys2Proof
end

