-- ==== Sys2Proof/WellFormed.lean ====
section
/-! DEFINITION. The operand domains the spec gives an operation: outside them it refuses the operation (R102, R127, D17, D23).
Channels, indices, counts of cycles, brightness values and strings have no ill-formed value: they are clamped, ignored or
reported (R120). A SEND_BYTE operand outside 0..255 (R66, D15) is ruled out by its type. -/

namespace Sys2Proof

/-- The operands lie in the operation's domain. -/
def Instr.wf : Instr → Bool
  | .sendBit _ => true
  | .sendByte _ => true
  | .latch => true
  | .init p q _ => decide (p ≠ q)
  | .emitPixel _ _ _ => true
  | .setBrightness _ => true
  | .setColor _ _ _ _ => true
  | .setColorHex _ => true
  | .clear => true
  | .getStatus => true
  | .cleanup => true
  | .demoSequence delay => decide (0 ≤ delay)
  | .breathingEffect _ _ _ _ duration => decide (0 ≤ duration)
  | .rainbow _ speed => decide (0 ≤ speed)
  | .policeLights duration speed => decide (0 ≤ duration) && decide (0 ≤ speed)
  | .fadeBetweenColors _ _ steps duration => decide (1 ≤ steps) && decide (0 ≤ duration)

/-- The host can issue it: every operation but the three micro-operations (R56). -/
def Instr.hostIssued : Instr → Bool
  | .sendBit _ => false
  | .sendByte _ => false
  | .latch => false
  | .init _ _ _ => true
  | .emitPixel _ _ _ => true
  | .setBrightness _ => true
  | .setColor _ _ _ _ => true
  | .setColorHex _ => true
  | .clear => true
  | .getStatus => true
  | .cleanup => true
  | .demoSequence _ => true
  | .breathingEffect _ _ _ _ _ => true
  | .rainbow _ _ => true
  | .policeLights _ _ => true
  | .fadeBetweenColors _ _ _ _ => true

end Sys2Proof
end

