-- ==== Sys2Proof/Decode.lean ====
section
/-! DEFINITION. Reading a command (30_encoding.md R54 to R57) and writing one. Total: whatever is no operation is rejected
by name. -/

namespace Sys2Proof

/-- Why a command selects no operation. -/
inductive DecodeError where
  | unknownOpcode (op : Byte)   -- an opcode not in the table of R56 (R57)
  | missingOperand (k : Nat)    -- operand k is omitted and the spec gives it no default (R54)
  | wrongType (k : Nat)         -- operand k is not of the type R55 and R56 give it
  | extraOperands               -- more operands than the operation has
  deriving DecidableEq, Repr

/-- Operand `k` as an `Int`, or the default the spec gives it (R54). -/
def intOperand (vs : List Value) (k : Nat) (dflt : Option Int) : Except DecodeError Int :=
  match vs[k]? with
  | some (.int n) => .ok n
  | none | some .omitted =>
    match dflt with
    | some n => .ok n
    | none => .error (.missingOperand k)
  | some _ => .error (.wrongType k)

/-- Operand `k` as a `Scalar`, or the default the spec gives it (R54). -/
def scalarOperand (vs : List Value) (k : Nat) (dflt : Option Scalar) : Except DecodeError Scalar :=
  match vs[k]? with
  | some (.scalar q) => .ok q
  | none | some .omitted =>
    match dflt with
    | some q => .ok q
    | none => .error (.missingOperand k)
  | some _ => .error (.wrongType k)

/-- Operand `k` as a character string. -/
def strOperand (vs : List Value) (k : Nat) : Except DecodeError (List Char) :=
  match vs[k]? with
  | some (.str s) => .ok s
  | none | some .omitted => .error (.missingOperand k)
  | some _ => .error (.wrongType k)

/-- Operand `k` as a colour triple. -/
def colourOperand (vs : List Value) (k : Nat) : Except DecodeError Colour :=
  match vs[k]? with
  | some (.colour c) => .ok c
  | none | some .omitted => .error (.missingOperand k)
  | some _ => .error (.wrongType k)

/-- The operation the opcode byte selects, over the given operands (the table of R56). -/
def decodeOperation (op : Byte) (vs : List Value) : Except DecodeError Instr :=
  match op.toNat with
  | 0x00 => do
    let p ← intOperand vs 0 (some Config.dataPin)
    let q ← intOperand vs 1 (some Config.clockPin)
    let x ← scalarOperand vs 2 (some Config.brightness)
    .ok (.init p q x)
  | 0x01 => do
    let r ← intOperand vs 0 none
    let g ← intOperand vs 1 none
    let b ← intOperand vs 2 none
    .ok (.emitPixel r g b)
  | 0x02 => do
    let x ← scalarOperand vs 0 none
    .ok (.setBrightness x)
  | 0x03 => do
    let r ← intOperand vs 0 none
    let g ← intOperand vs 1 none
    let b ← intOperand vs 2 none
    let index ← intOperand vs 3 (some 0)
    .ok (.setColor r g b index)
  | 0x04 => do
    let s ← strOperand vs 0
    .ok (.setColorHex s)
  | 0x05 => .ok .clear
  | 0x06 => .ok .getStatus
  | 0x07 => .ok .cleanup
  | 0x10 => do
    let delay ← scalarOperand vs 0 none
    .ok (.demoSequence delay)
  | 0x11 => do
    let r ← intOperand vs 0 none
    let g ← intOperand vs 1 none
    let b ← intOperand vs 2 none
    let cycles ← intOperand vs 3 none
    let duration ← scalarOperand vs 4 none
    .ok (.breathingEffect r g b cycles duration)
  | 0x12 => do
    let cycles ← intOperand vs 0 none
    let speed ← scalarOperand vs 1 none
    .ok (.rainbow cycles speed)
  | 0x13 => do
    let duration ← scalarOperand vs 0 none
    let speed ← scalarOperand vs 1 none
    .ok (.policeLights duration speed)
  | 0x14 => do
    let c1 ← colourOperand vs 0
    let c2 ← colourOperand vs 1
    let steps ← intOperand vs 2 none
    let duration ← scalarOperand vs 3 none
    .ok (.fadeBetweenColors c1 c2 steps duration)
  | _ => .error (.unknownOpcode op)

/-- How many operands the operation of an opcode has (R56). -/
def operandCount (op : Byte) : Nat :=
  match op.toNat with
  | 0x00 => 3
  | 0x01 => 3
  | 0x02 => 1
  | 0x03 => 4
  | 0x04 => 1
  | 0x10 => 1
  | 0x11 => 5
  | 0x12 => 2
  | 0x13 => 2
  | 0x14 => 4
  | _ => 0

/-- The decoder: the operation a command selects, or the reason it selects none (R55 to R57). -/
def decode (c : Command) : Except DecodeError Instr := do
  let i ← decodeOperation c.opcode c.operands
  if operandCount c.opcode < c.operands.length then .error .extraOperands else .ok i

/-- The command that selects an operation, every operand written out; none for the three micro-operations, which the host
cannot issue (R56). -/
def encode : Instr → Option Command
  | .sendBit _ => none
  | .sendByte _ => none
  | .latch => none
  | .init p q x => some ⟨0x00, [.int p, .int q, .scalar x]⟩
  | .emitPixel r g b => some ⟨0x01, [.int r, .int g, .int b]⟩
  | .setBrightness x => some ⟨0x02, [.scalar x]⟩
  | .setColor r g b index => some ⟨0x03, [.int r, .int g, .int b, .int index]⟩
  | .setColorHex s => some ⟨0x04, [.str s]⟩
  | .clear => some ⟨0x05, []⟩
  | .getStatus => some ⟨0x06, []⟩
  | .cleanup => some ⟨0x07, []⟩
  | .demoSequence delay => some ⟨0x10, [.scalar delay]⟩
  | .breathingEffect r g b cycles duration => some ⟨0x11, [.int r, .int g, .int b, .int cycles, .scalar duration]⟩
  | .rainbow cycles speed => some ⟨0x12, [.int cycles, .scalar speed]⟩
  | .policeLights duration speed => some ⟨0x13, [.scalar duration, .scalar speed]⟩
  | .fadeBetweenColors c1 c2 steps duration => some ⟨0x14, [.colour c1, .colour c2, .int steps, .scalar duration]⟩

/-- The operands of a bare opcode byte: an operand the spec gives a default is left out (R54), every other one is the zero
of its type. The operands of a command are no bits (D1), so this is what "operand words of zeros" comes to here (log 10). -/
def zeroOperands (op : Byte) : List Value :=
  match op.toNat with
  | 0x01 => [.int 0, .int 0, .int 0]
  | 0x02 => [.scalar 0]
  | 0x03 => [.int 0, .int 0, .int 0, .omitted]
  | 0x04 => [.str []]
  | 0x10 => [.scalar 0]
  | 0x11 => [.int 0, .int 0, .int 0, .int 0, .scalar 0]
  | 0x12 => [.int 0, .scalar 0]
  | 0x13 => [.scalar 0, .scalar 0]
  | 0x14 => [.colour ⟨0, 0, 0⟩, .colour ⟨0, 0, 0⟩, .int 0, .scalar 0]
  | _ => []

/-- The command of an opcode-table word of `nbits` bits. A command's only bits are its opcode byte, so a longer word whose
later bits are not all zero is no command: it gets an opcode outside the table. -/
def tableCommand (nbits w : Nat) : Command :=
  let v := w % 2 ^ nbits
  if v < 256 then ⟨BitVec.ofNat 8 v, zeroOperands (BitVec.ofNat 8 v)⟩ else ⟨0xFF, []⟩

/-- The host's question: the instruction the decoder reads from an opcode-table word. -/
def decodeTableWord (nbits w : Nat) : Option Instr :=
  (decode (tableCommand nbits w)).toOption

end Sys2Proof
end

