-- ==== Sys2Proof/Machine/State.lean ====
section
/-! DEFINITION. The state of the block (10_state.md R10 to R25), of its host and of its platform, as plain data. -/

namespace Sys2Proof.Machine

/-- `LIFECYCLE` (R16). -/
inductive Lifecycle where
  | unbuilt | ready | released | failed
  deriving DecidableEq, Repr

/-- The level of a line (R17): 0, 1, or not driven by the encoder and unknown. -/
inductive Level where
  | low | high | x
  deriving DecidableEq, Repr

/-- The line space (R30). -/
inductive Line where
  | data | clk
  deriving DecidableEq, Repr

/-- The two pauses `D(t)` of the encoder (R46, R67). -/
inductive Pause where
  | hold    -- D(T_HOLD)
  | latch   -- D(T_LATCH)
  deriving DecidableEq, Repr

/-- The events of R8. `Now()` is a reading, and no event of TRACE (R39 lists them; log 7). -/
inductive Event where
  | w (line : Line) (v : Bool)   -- W(L, v)
  | d (p : Pause)                -- D(t), at least t
  | wait (t : Scalar)            -- Wait(t), at least t seconds
  | acquire (p q : Int)          -- Acquire(p, q)
  | release (p q : Int)          -- Release(p, q)
  deriving DecidableEq, Repr

/-- `SEQ` (R19): the event of the emission in flight that is about to be produced. -/
inductive SeqPos where
  | idle
  | latch
  | cell (byte : Fin 12) (bit : Fin 8) (phase : Fin 5)
  deriving DecidableEq, Repr

/-- The status space (R32): the five fields of GET_STATUS. -/
structure Snapshot where
  dataPin    : Int
  clockPin   : Int
  ledCount   : Int
  brightness : Scalar
  mode       : Nat
  deriving DecidableEq, Repr

/-- The outcomes of the table after R121. -/
inductive OutcomeCode where
  | ok | eInit | oClamp | oIgnore | oIndex
  deriving DecidableEq, Repr

/-- What the host has got back from its last operation (R56, R121, R157). -/
inductive Reply where
  | none                       -- nothing yet, or the operation was abandoned (R129)
  | done                       -- it returned, with no result
  | scalar (q : Scalar)        -- SET_BRIGHTNESS
  | bool (b : Bool)            -- SET_COLOR
  | status (snap : Snapshot)   -- GET_STATUS
  | raised (e : OutcomeCode)   -- an exception reached the host: E_INIT and no other (R121)
  deriving DecidableEq, Repr

/-- A set of pin identifiers (`VALID_PINS` of R6), finite or co-finite, as plain data. -/
inductive PinSet where
  | only (pins : List Int)
  | allBut (pins : List Int)
  deriving DecidableEq, Repr

/-- What reaches the block from outside (R157). `again`: a second TERMINATE arrives while the handler's CLEANUP is in
flight (R132). -/
inductive Input where
  | command (c : Command)                            -- the host issues an operation
  | commandCut (c : Command) (n : Nat) (again : Bool)  -- it issues one, and TERMINATE is recognised after n of its micro-actions (R129)
  | terminate (again : Bool)                         -- TERMINATE between two operations (R129)
  | exit (again : Bool)                              -- the host's program ends; the hook runs CLEANUP (R135)
  deriving DecidableEq, Repr

/-- The process the block runs in: TERMINATE and the normal end exit it (R131, R132, R135). -/
inductive Process where
  | running | exited
  deriving DecidableEq, Repr

/-- Nothing the spec describes stops the machine: pin set-up failure is an exception the block takes, with LIFECYCLE
FAILED as its next state (R81, R122), and the other failures are completions (R121). So no fault exists. -/
inductive Fault where
  deriving DecidableEq, Repr

/-- The cases the spec itself refuses ("a model treats it as a refusal, erring toward unprovable", R8; R127). All safe. -/
inductive Refusal where
  /-- An instruction with no meaning in the model yet. Raised by exec's arm only; safe. No arm raises it now. -/
  | notModelled (mnemonic : String)
  /-- Any operation but INIT and CLEANUP, outside READY (R134, D9). Raised by every such meaning; safe. -/
  | notReady
  /-- INIT outside UNBUILT (R80, R134, D9). Raised by INIT; safe. -/
  | alreadyConstructed
  /-- INIT with one identifier for both lines (R80, R127, D17). Raised by INIT; safe. -/
  | samePin
  /-- An effect with a negative delay, duration or speed (R102, R127, D23). Raised by the effects; safe. -/
  | negativeTime
  /-- FADE_BETWEEN_COLORS with fewer than one step (R102, R127, D23). Raised by it; safe. -/
  | stepsBelowOne
  /-- TERMINATE while CLEANUP is in flight (R132, D12). Raised by the delivery of TERMINATE; safe. -/
  | terminateDuringCleanup
  /-- An opcode byte that selects no operation (R57, R127, D1). Raised by the command port; safe. -/
  | unknownOpcode (op : Byte)
  /-- Operands that are not those the operation takes (R54, R55). Raised by the command port; safe. -/
  | badOperands
  deriving DecidableEq, Repr

/-- The state. The fields of the block have the names of 10_state.md; the last seven are the environment's, the host's and
the model's own. -/
structure State where
  dataPin    : Int          -- DATA_PIN (R11)
  clockPin   : Int          -- CLOCK_PIN (R12)
  ledCount   : Int          -- LED_COUNT, hardwired (R13)
  brightness : Scalar       -- BRIGHTNESS (R14)
  mode       : Nat          -- MODE, read-only (R15)
  lifecycle  : Lifecycle    -- LIFECYCLE (R16)
  dataLvl    : Level        -- DATA_LVL (R17)
  clkLvl     : Level        -- CLK_LVL (R17)
  chR        : Byte         -- CH_R (R18)
  chG        : Byte         -- CH_G (R18)
  chB        : Byte         -- CH_B (R18)
  ctrl       : Byte         -- CTRL (R18)
  sr         : Byte         -- SR (R18)
  bitcnt     : Fin 9        -- BITCNT, 0..8 (R18)
  seq        : SeqPos       -- SEQ (R19)
  trace      : List Event   -- TRACE, oldest first (R21)
  validPins  : PinSet       -- VALID_PINS, the platform's (R6, D17)
  pinSetupOk : Bool         -- PIN_SETUP_OK, the platform's answer to INIT (R6, D26)
  inputs     : List Input   -- what the outside will send, next first (R157)
  process    : Process      -- running, or exited (R132, R135)
  reply      : Reply        -- the last result the host got (R157); the block stores none (R20)
  clock      : Scalar       -- the wall clock's last reading plus every pause since: the least it can read now (R136)
  draws      : Nat          -- how many free values have been drawn (log 8)
  deriving DecidableEq, Repr

/-- The machine before any operation (R24, R146): LIFECYCLE UNBUILT, both lines X, TRACE empty. Every other register of the
block is unspecified there, and its value here is the model's own (DESIGN CHOICE, log 2): SEQ at IDLE too, which R19 gives
only between operations. LED_COUNT and MODE stand as they are hardwired (R13, R15). The block's reset procedure is the
operation INIT, run from here (R145, log 1). -/
def State.reset : State where
  dataPin    := Config.dataPin
  clockPin   := Config.clockPin
  ledCount   := Config.numLeds
  brightness := Config.brightness
  mode       := Config.modeValue
  lifecycle  := .unbuilt
  dataLvl    := .x
  clkLvl     := .x
  chR        := 0
  chG        := 0
  chB        := 0
  ctrl       := 0
  sr         := 0
  bitcnt     := 0
  seq        := .idle
  trace      := []
  validPins  := .allBut []
  pinSetupOk := true
  inputs     := []
  process    := .running
  reply      := .none
  clock      := 0
  draws      := 0

end Sys2Proof.Machine
end

