-- ==== Sys2Proof/Machine/Operands.lean ====
section
/-! DEFINITION. Operand assembly (30_encoding.md R50 to R53) and the arithmetic of 40_encoder_ops.md R68 to R74,
42_effects.md R102, R105. -/

namespace Sys2Proof.Machine

/-- `clamp` of R7 on integers. -/
def clampInt (x lo hi : Int) : Int :=
  if x < lo then lo else if hi < x then hi else x

/-- `clamp` of R7 on scalars. -/
def clampScalar (x lo hi : Scalar) : Scalar :=
  if x < lo then lo else if hi < x then hi else x

/-- A brightness operand brought into [0, 1] (R80, R82, R123). -/
def clampBrightness (x : Scalar) : Scalar :=
  clampScalar x 0 1

/-- `SCALE_FN` (R68, R74, D4): the floor of the exact product. -/
def scaleFn (c : Int) (q : Scalar) : Int :=
  ⌊(c : Scalar) * q⌋

/-- A channel operand at a brightness: scaled (R68), then clamped (R69, R51). -/
def channelByte (q : Scalar) (c : Int) : Byte :=
  BitVec.ofInt 8 (clampInt (scaleFn c q) 0 255)

/-- A control field (R52): `3 - ((CH >> 6) & 3)`. -/
def controlField (ch : Byte) : Byte :=
  3 - ((ch >>> 6) &&& 3)

/-- The control byte (R50, R71): red in bits 5:4, green in 3:2, blue in 1:0, bits 7:6 set. -/
def controlByte (chR chG chB : Byte) : Byte :=
  0xC0 ||| (controlField chR <<< 4) ||| (controlField chG <<< 2) ||| controlField chB

/-- The twelve bytes of a frame in wire order (R48, R72): blue, green, red after the control byte. -/
def frameBytes (ctrl chB chG chR : Byte) : List Byte :=
  [0x00, 0x00, 0x00, 0x00, ctrl, chB, chG, chR, 0x00, 0x00, 0x00, 0x00]

/-- `h` of R53: a hex digit, either letter case (D13). -/
def hexDigit (c : Char) : Option Int :=
  if '0' ≤ c ∧ c ≤ '9' then some (c.toNat - 48 : Int)
  else if 'a' ≤ c ∧ c ≤ 'f' then some (c.toNat - 87 : Int)
  else if 'A' ≤ c ∧ c ≤ 'F' then some (c.toNat - 55 : Int)
  else none

/-- Two hex digits, the more significant first (R53). -/
def hexPair (c d : Char) : Option Int :=
  match hexDigit c, hexDigit d with
  | some hi, some lo => some (16 * hi + lo)
  | _, _ => none

/-- One leading `#` dropped, if there is one (R53, D13). -/
def dropHash : List Char → List Char
  | [] => []
  | c :: t => if c = '#' then t else c :: t

/-- `parse_hex` (R86, R53): none when the string is malformed. -/
def parseHex (s : List Char) : Option Colour :=
  match dropHash s with
  | [c0, c1, c2, c3, c4, c5] =>
    match hexPair c0 c1, hexPair c2 c3, hexPair c4 c5 with
    | some r, some g, some b => some ⟨r, g, b⟩
    | _, _, _ => none
  | _ => none

/-- The index test of SET_COLOR (R31, R84, D14). -/
def indexValid (index ledCount : Int) : Bool :=
  decide (0 ≤ index) && decide (index < ledCount)

/-- `WHEEL` (R105, C1, C7). -/
def wheel (i : Int) : Colour :=
  if i ≤ 84 then ⟨3 * i, 255 - 3 * i, 0⟩
  else if i ≤ 169 then ⟨255 - 3 * (i - 85), 0, 3 * (i - 85)⟩
  else ⟨0, 3 * (i - 170), 255 - 3 * (i - 170)⟩

/-- A base channel at the fraction `i/50` of BREATHING_EFFECT (R104, D20): the floor of the exact product. -/
def breathChannel (c : Int) (i : Nat) : Int :=
  ⌊(c : Scalar) * (i : Scalar) / 50⌋

/-- A channel of FADE_BETWEEN_COLORS at the ratio `q` (R108, D20): the floor of the whole sum. -/
def fadeChannel (c1 c2 : Int) (q : Scalar) : Int :=
  ⌊(c1 : Scalar) + ((c2 : Scalar) - (c1 : Scalar)) * q⌋

/-- Membership in `VALID_PINS` (R80, D17). -/
def pinIn (p : Int) : PinSet → Bool
  | .only pins => pins.contains p
  | .allBut pins => !pins.contains p

end Sys2Proof.Machine
end

