-- ==== Sys2Proof/Machine/Ops.lean ====
section
/-! DEFINITION. The primitives of 00_scope.md R8 as micro-actions on State, running a list of them, and taking E_INIT.

An operation is a list of micro-actions in the order of its pseudocode: each is one event of TRACE or one write of a
register. A list is what TERMINATE can cut (R129), and running a whole one is the operation (R39). -/

namespace Sys2Proof.Machine

/-- The level a write of a bit gives a line (R17). -/
def levelOf (v : Bool) : Level :=
  if v then .high else .low

/-- SEQ after one more event of the emission (R19): one phase on, bits 7 down to 0, bytes 0 up to 11, then LATCH, then
IDLE. Outside an emission it stays IDLE. -/
def seqNext : SeqPos → SeqPos
  | .idle => .idle
  | .latch => .idle
  | .cell byte bit phase =>
    if hp : phase.val + 1 < 5 then .cell byte bit ⟨phase.val + 1, hp⟩
    else if 0 < bit.val then .cell byte ⟨bit.val - 1, by omega⟩ 0
    else if hb : byte.val + 1 < 12 then .cell ⟨byte.val + 1, hb⟩ 7 0
    else .latch

/-- The length a pause is sure to have (R8, R46, R67). -/
def pauseOf : Event → Scalar
  | .w _ _ => 0
  | .d .hold => Config.tHold
  | .d .latch => Config.tLatch
  | .wait t => t
  | .acquire _ _ => 0
  | .release _ _ => 0

/-- What an event does besides joining TRACE: a write sets the level of its line (R17); an event of an emission moves SEQ on
(R19); a pause lets the wall clock run (R136); a release leaves the lines undriven (R17, R89, D24). -/
def eventEffect (e : Event) (s : State) : State :=
  match e with
  | .w .data v => { s with dataLvl := levelOf v, seq := seqNext s.seq }
  | .w .clk v => { s with clkLvl := levelOf v, seq := seqNext s.seq }
  | .d p => { s with clock := s.clock + pauseOf (.d p), seq := seqNext s.seq }
  | .wait t => { s with clock := s.clock + t }
  | .acquire _ _ => s
  | .release _ _ => { s with dataLvl := .x, clkLvl := .x }

/-- Taking the exception E_INIT (R81, R122): LIFECYCLE becomes FAILED, the host gets the exception, no event is produced, and
every other register that an operation writes is unspecified, so a free value (R24; log 8). BRIGHTNESS stays a legal value
(R14). The lines are as they were: nothing has taken effect on them (R122). There is no return from it (R81). -/
def takeEInit (s : State) : State :=
  { s with
    lifecycle  := .failed
    reply      := .raised .eInit
    dataPin    := Config.freeInt s.draws
    clockPin   := Config.freeInt (s.draws + 1)
    brightness := clampBrightness (Config.freeScalar s.draws)
    chR        := Config.freeByte s.draws
    chG        := Config.freeByte (s.draws + 1)
    chB        := Config.freeByte (s.draws + 2)
    ctrl       := Config.freeByte (s.draws + 3)
    sr         := Config.freeByte (s.draws + 4)
    bitcnt     := Config.freeBitcnt s.draws
    draws      := s.draws + 5 }

/-- One step of an operation's pseudocode. -/
inductive Micro where
  | event (e : Event)                 -- an event joins TRACE
  | startFrame                        -- SEQ <- (0, 7, 0)
  | setChR (v : Byte)                 -- CH_R <- v
  | setChG (v : Byte)                 -- CH_G <- v
  | setChB (v : Byte)                 -- CH_B <- v
  | setCtrl (v : Byte)                -- CTRL <- v
  | loadSr (v : Byte)                 -- SR <- v
  | loadBitcnt                        -- BITCNT <- 8
  | shiftSr                           -- SR <- (SR << 1) & 0xFF
  | decBitcnt                         -- BITCNT <- BITCNT - 1
  | setDataPin (p : Int)              -- DATA_PIN <- p
  | setClockPin (q : Int)             -- CLOCK_PIN <- q
  | setBrightness (x : Scalar)        -- BRIGHTNESS <- x
  | setLifecycle (l : Lifecycle)      -- LIFECYCLE <- l
  | readClock                         -- Now(): the clock runs on by a free lag
  | raiseEInit                        -- raise E_INIT
  | reply (r : Reply)                 -- return r
  deriving DecidableEq, Repr

/-- What a micro-action does to every field but TRACE. -/
def applyMicro (s : State) (m : Micro) : State :=
  match m with
  | .event e => eventEffect e s
  | .startFrame => { s with seq := .cell 0 7 0 }
  | .setChR v => { s with chR := v }
  | .setChG v => { s with chG := v }
  | .setChB v => { s with chB := v }
  | .setCtrl v => { s with ctrl := v }
  | .loadSr v => { s with sr := v }
  | .loadBitcnt => { s with bitcnt := 8 }
  | .shiftSr => { s with sr := s.sr <<< 1 }
  | .decBitcnt => { s with bitcnt := ⟨s.bitcnt.val - 1, by omega⟩ }
  | .setDataPin p => { s with dataPin := p }
  | .setClockPin q => { s with clockPin := q }
  | .setBrightness x => { s with brightness := x }
  | .setLifecycle l => { s with lifecycle := l }
  | .readClock => { s with clock := s.clock + Config.lag s.draws, draws := s.draws + 1 }
  | .raiseEInit => takeEInit s
  | .reply r => { s with reply := r }

/-- The event a micro-action adds to TRACE, if it adds one. -/
def microEvent : Micro → Option Event
  | .event e => some e
  | _ => none

/-- The events of a list of micro-actions, in order. -/
def eventsOf (ms : List Micro) : List Event :=
  ms.filterMap microEvent

/-- Run micro-actions in order: each takes effect completely before the next begins, and TRACE grows by their events, in
order, with nothing added, merged or moved (R39). -/
def run (ms : List Micro) (s : State) : State :=
  { ms.foldl applyMicro s with trace := s.trace ++ eventsOf ms }

/-- What an operation is in a state: its micro-actions, or the reason the spec refuses it there. -/
abbrev Plan := Except Refusal (List Micro)

/-- An operation that nothing interrupts: all of its plan. -/
def perform (p : Plan) (s : State) : Host.Outcome State Fault Refusal :=
  match p with
  | .ok ms => .next (run ms s)
  | .error r => .refused r

/-- The lifecycle test of every operation but INIT and CLEANUP, made first (R130, R134). -/
def whenReady (s : State) (p : Plan) : Plan :=
  if s.lifecycle = .ready then p else .error .notReady

end Sys2Proof.Machine
end

