-- ==== Sys2Proof/Machine/Encoder.lean ====
section
/-! DEFINITION. The leaf layer (40_encoder_ops.md): SEND_BIT, SEND_BYTE, LATCH, EMIT_PIXEL. -/

namespace Sys2Proof.Machine

/-- The five events of SEND_BIT, in order (R65, R46). -/
def sendBitScript (b : Bool) : List Micro :=
  [.event (.w .data b), .event (.w .clk true), .event (.d .hold), .event (.w .clk false), .event (.d .hold)]

/-- The loop of SEND_BYTE for `n` bits still to send, `v` being what SR holds (R66). -/
def sendByteLoop : Nat → Byte → List Micro
  | 0, _ => []
  | n + 1, v => sendBitScript v.msb ++ [.shiftSr, .decBitcnt] ++ sendByteLoop n (v <<< 1)

/-- SEND_BYTE (R66, R47): load SR and BITCNT, then eight cells, most significant bit first. -/
def sendByteScript (v : Byte) : List Micro :=
  [.loadSr v, .loadBitcnt] ++ sendByteLoop 8 v

/-- LATCH (R67): one pause. -/
def latchScript : List Micro :=
  [.event (.d .latch)]

/-- FRAME (R72, R48): the bytes one after another, then the latch. R19 has SEQ at the first cell when the first event is
about to be produced and gives no write that brings it there; that it leaves IDLE here, right before the frame's first byte
and after the writes of CH_R, CH_G, CH_B and CTRL, is a DESIGN CHOICE (log 28). -/
def frameScript (bytes : List Byte) : List Micro :=
  [.startFrame] ++ bytes.flatMap sendByteScript ++ latchScript

/-- EMIT_PIXEL at a brightness, read once by the caller (R70): scale and clamp, control byte, frame. -/
def emitPixelScript (q : Scalar) (r g b : Int) : List Micro :=
  let chR := channelByte q r
  let chG := channelByte q g
  let chB := channelByte q b
  let ctrl := controlByte chR chG chB
  [.setChR chR, .setChG chG, .setChB chB, .setCtrl ctrl] ++ frameScript (frameBytes ctrl chB chG chR)

/-- SEND_BIT (R65). -/
def planSendBit (b : Bool) (s : State) : Plan :=
  whenReady s (.ok (sendBitScript b))

/-- SEND_BIT (R65). -/
def execSendBit (b : Bool) (s : State) : Host.Outcome State Fault Refusal :=
  perform (planSendBit b s) s

/-- SEND_BYTE (R66). -/
def planSendByte (v : Byte) (s : State) : Plan :=
  whenReady s (.ok (sendByteScript v))

/-- SEND_BYTE (R66). -/
def execSendByte (v : Byte) (s : State) : Host.Outcome State Fault Refusal :=
  perform (planSendByte v s) s

/-- LATCH (R67). -/
def planLatch (s : State) : Plan :=
  whenReady s (.ok latchScript)

/-- LATCH (R67). -/
def execLatch (s : State) : Host.Outcome State Fault Refusal :=
  perform (planLatch s) s

/-- EMIT_PIXEL (R70, R76): it never fails for any integers. -/
def planEmitPixel (r g b : Int) (s : State) : Plan :=
  whenReady s (.ok (emitPixelScript s.brightness r g b ++ [.reply .done]))

/-- EMIT_PIXEL (R70). -/
def execEmitPixel (r g b : Int) (s : State) : Host.Outcome State Fault Refusal :=
  perform (planEmitPixel r g b s) s

end Sys2Proof.Machine
end

