-- ==== Sys2Proof/Machine/Driver.lean ====
section
/-! DEFINITION. The driver operations (41_driver_ops.md): INIT, SET_BRIGHTNESS, SET_COLOR, SET_COLOR_HEX, CLEAR, GET_STATUS,
CLEANUP. -/

namespace Sys2Proof.Machine

/-- `RESET_FRAME` (R6, D6): the spec's decision, the frame of the colour (0,0,0). -/
def resetFrame : Config.ResetFrame := .colourZero

/-- What construction emits, under each reading of "an all-zero frame" (R80, D6, N3). -/
def resetFrameScript (f : Config.ResetFrame) (q : Scalar) : List Micro :=
  match f with
  | .colourZero => emitPixelScript q 0 0 0
  | .twelveZeroBytes => frameScript (List.replicate 12 0x00)

/-- INIT that gets its pins (R80): acquire, the registers, READY, both lines low (data first, D8), the reset frame. -/
def initScript (p q : Int) (x : Scalar) : List Micro :=
  [.event (.acquire p q), .setDataPin p, .setClockPin q, .setBrightness (clampBrightness x), .setLifecycle .ready,
    .event (.w .data false), .event (.w .clk false)]
    ++ resetFrameScript resetFrame (clampBrightness x) ++ [.reply .done]

/-- Pin set-up succeeds (R80, R81): the platform grants it, and both identifiers are valid. -/
def pinsGranted (p q : Int) (s : State) : Bool :=
  s.pinSetupOk && pinIn p s.validPins && pinIn q s.validPins

/-- INIT (R80, R81), its tests in the order of R130: lifecycle, equal pins, pin set-up. -/
def planInit (p q : Int) (x : Scalar) (s : State) : Plan :=
  if s.lifecycle ≠ .unbuilt then .error .alreadyConstructed
  else if p = q then .error .samePin
  else if pinsGranted p q s then .ok (initScript p q x)
  else .ok [.raiseEInit]

/-- INIT (R80). -/
def execInit (p q : Int) (x : Scalar) (s : State) : Host.Outcome State Fault Refusal :=
  perform (planInit p q x s) s

/-- SET_BRIGHTNESS (R82): clamp, store, answer what is stored; no event. -/
def planSetBrightness (x : Scalar) (s : State) : Plan :=
  whenReady s (.ok [.setBrightness (clampBrightness x), .reply (.scalar (clampBrightness x))])

/-- SET_BRIGHTNESS (R82). -/
def execSetBrightness (x : Scalar) (s : State) : Host.Outcome State Fault Refusal :=
  perform (planSetBrightness x s) s

/-- SET_COLOR without its result (R84): the index test, before anything is scaled; then one emission, or nothing. -/
def setColorScript (ledCount : Int) (q : Scalar) (r g b index : Int) : List Micro :=
  if indexValid index ledCount then emitPixelScript q r g b else []

/-- SET_COLOR (R84). -/
def planSetColor (r g b index : Int) (s : State) : Plan :=
  whenReady s (.ok (setColorScript s.ledCount s.brightness r g b index
    ++ [.reply (.bool (indexValid index s.ledCount))]))

/-- SET_COLOR (R84). -/
def execSetColor (r g b index : Int) (s : State) : Host.Outcome State Fault Refusal :=
  perform (planSetColor r g b index s) s

/-- SET_COLOR_HEX without its return (R85): a malformed string is a silent no-op (R124); a well-formed one is SET_COLOR at
index 0 with the result dropped. -/
def setColorHexScript (ledCount : Int) (q : Scalar) (str : List Char) : List Micro :=
  match parseHex str with
  | some c => setColorScript ledCount q c.r c.g c.b 0
  | none => []

/-- SET_COLOR_HEX (R85). -/
def planSetColorHex (str : List Char) (s : State) : Plan :=
  whenReady s (.ok (setColorHexScript s.ledCount s.brightness str ++ [.reply .done]))

/-- SET_COLOR_HEX (R85). -/
def execSetColorHex (str : List Char) (s : State) : Host.Outcome State Fault Refusal :=
  perform (planSetColorHex str s) s

/-- CLEAR without its return (R87): `EMIT_PIXEL(0, 0, 0)`. -/
def clearScript (q : Scalar) : List Micro :=
  emitPixelScript q 0 0 0

/-- CLEAR (R87). -/
def planClear (s : State) : Plan :=
  whenReady s (.ok (clearScript s.brightness ++ [.reply .done]))

/-- CLEAR (R87). -/
def execClear (s : State) : Host.Outcome State Fault Refusal :=
  perform (planClear s) s

/-- The five fields of GET_STATUS (R88, R32). -/
def snapshot (s : State) : Snapshot :=
  ⟨s.dataPin, s.clockPin, s.ledCount, s.brightness, s.mode⟩

/-- GET_STATUS (R88): no side effect. -/
def planGetStatus (s : State) : Plan :=
  whenReady s (.ok [.reply (.status (snapshot s))])

/-- GET_STATUS (R88). -/
def execGetStatus (s : State) : Host.Outcome State Fault Refusal :=
  perform (planGetStatus s) s

/-- CLEANUP without its return: in READY the black frame and then the release (R89), in every other lifecycle state nothing
(R90). -/
def cleanupScript (s : State) : List Micro :=
  if s.lifecycle = .ready then
    emitPixelScript s.brightness 0 0 0 ++ [.event (.release s.dataPin s.clockPin), .setLifecycle .released]
  else []

/-- CLEANUP (R89, R90): admitted in every lifecycle state (R134). -/
def planCleanup (s : State) : Plan :=
  .ok (cleanupScript s ++ [.reply .done])

/-- CLEANUP (R89, R90). -/
def execCleanup (s : State) : Host.Outcome State Fault Refusal :=
  perform (planCleanup s) s

end Sys2Proof.Machine
end

