-- ==== Sys2Proof/Machine/Effects.lean ====
section
/-! DEFINITION. The sequencer operations (42_effects.md): the five effects. BRIGHTNESS is the same at every emission of an
effect, since no effect writes it and nothing else runs meanwhile (R100). -/

namespace Sys2Proof.Machine

/-- `PALETTE` (R103): Red, Orange, Yellow, Green, Cyan, Blue, Purple, Pink, White. -/
def palette : List Colour :=
  [⟨255, 0, 0⟩, ⟨255, 165, 0⟩, ⟨255, 255, 0⟩, ⟨0, 255, 0⟩, ⟨0, 255, 255⟩, ⟨0, 0, 255⟩, ⟨128, 0, 128⟩, ⟨255, 192, 203⟩,
    ⟨255, 255, 255⟩]

/-- `T_BLANK` (R6, R107): 0.05 seconds. -/
def tBlank : Scalar := 1 / 20

/-- One emission of an effect and the wait after it (R101, D21). -/
def emitAndWait (q : Scalar) (t : Scalar) (c : Colour) : List Micro :=
  emitPixelScript q c.r c.g c.b ++ [.event (.wait t)]

/-- The domain test of an effect's times (R102, D23). -/
def whenTimes (ts : List Scalar) (p : Plan) : Plan :=
  if ts.all (fun t => decide (0 ≤ t)) then p else .error .negativeTime

/-- DEMO_SEQUENCE (R103): nine colours with a wait after each, then a clear. -/
def demoScript (q delay : Scalar) : List Micro :=
  palette.flatMap (emitAndWait q delay) ++ clearScript q

/-- DEMO_SEQUENCE (R103). -/
def planDemoSequence (delay : Scalar) (s : State) : Plan :=
  whenReady s (whenTimes [delay] (.ok (demoScript s.brightness delay ++ [.reply .done])))

/-- DEMO_SEQUENCE (R103). -/
def execDemoSequence (delay : Scalar) (s : State) : Host.Outcome State Fault Refusal :=
  perform (planDemoSequence delay s) s

/-- The values of `i` in one cycle of BREATHING_EFFECT (R104): 0 to 49 rising, then 50 to 0 falling. -/
def breathSteps : List Nat :=
  List.range 50 ++ (List.range 51).reverse

/-- The colours of BREATHING_EFFECT (R104); a count of cycles below one gives none (R102, D23). -/
def breathColours (c : Colour) (cycles : Int) : List Colour :=
  (List.replicate cycles.toNat breathSteps).flatten.map fun i : Nat =>
    ⟨breathChannel c.r i, breathChannel c.g i, breathChannel c.b i⟩

/-- BREATHING_EFFECT (R104). -/
def breathScript (q : Scalar) (c : Colour) (cycles : Int) (duration : Scalar) : List Micro :=
  (breathColours c cycles).flatMap (emitAndWait q (duration / 100))

/-- BREATHING_EFFECT (R104). -/
def planBreathingEffect (r g b cycles : Int) (duration : Scalar) (s : State) : Plan :=
  whenReady s (whenTimes [duration] (.ok (breathScript s.brightness ⟨r, g, b⟩ cycles duration ++ [.reply .done])))

/-- BREATHING_EFFECT (R104). -/
def execBreathingEffect (r g b cycles : Int) (duration : Scalar) (s : State) : Host.Outcome State Fault Refusal :=
  perform (planBreathingEffect r g b cycles duration s) s

/-- The colours of RAINBOW (R106): WHEEL(0) to WHEEL(255), once per cycle. -/
def rainbowColours (cycles : Int) : List Colour :=
  (List.replicate cycles.toNat (List.range 256)).flatten.map fun i : Nat => wheel (i : Int)

/-- RAINBOW (R106): every step goes through SET_COLOR at index 0 (C3), and a wait follows it. -/
def rainbowScript (ledCount : Int) (q : Scalar) (cycles : Int) (speed : Scalar) : List Micro :=
  (rainbowColours cycles).flatMap fun c => setColorScript ledCount q c.r c.g c.b 0 ++ [.event (.wait speed)]

/-- RAINBOW (R106). -/
def planRainbow (cycles : Int) (speed : Scalar) (s : State) : Plan :=
  whenReady s (whenTimes [speed] (.ok (rainbowScript s.ledCount s.brightness cycles speed ++ [.reply .done])))

/-- RAINBOW (R106). -/
def execRainbow (cycles : Int) (speed : Scalar) (s : State) : Host.Outcome State Fault Refusal :=
  perform (planRainbow cycles speed s) s

/-- The four emissions of one pair of POLICE_LIGHTS with their waits (R107, D29). -/
def policePair (q speed : Scalar) : List Micro :=
  emitAndWait q speed ⟨255, 0, 0⟩ ++ emitAndWait q tBlank ⟨0, 0, 0⟩
    ++ emitAndWait q speed ⟨0, 0, 255⟩ ++ emitAndWait q tBlank ⟨0, 0, 0⟩

/-- A bound on the number of pairs: each pair pauses for `2*speed + 0.1` seconds at least, so this many use up `duration`
(R107). It makes the loop structural; a reading always ends it (`policeLoop_reads_past_duration` in Laws). -/
def policeBound (duration speed : Scalar) : Nat :=
  ⌈duration / (2 * speed + 1 / 10)⌉.toNat

/-- The loop of POLICE_LIGHTS from a state in which the check is about to be made (R107, D22): read the clock, and while
less than `duration` has elapsed since `start`, do one pair. -/
def policeLoop (duration speed start : Scalar) : Nat → State → List Micro
  | 0, _ => [.readClock]
  | n + 1, s =>
    if (run [.readClock] s).clock - start < duration then
      .readClock :: (policePair s.brightness speed
        ++ policeLoop duration speed start n (run (.readClock :: policePair s.brightness speed) s))
    else [.readClock]

/-- POLICE_LIGHTS (R107): `start` is a first reading of the clock. -/
def policeScript (duration speed : Scalar) (s : State) : List Micro :=
  .readClock :: policeLoop duration speed (run [.readClock] s).clock (policeBound duration speed) (run [.readClock] s)

/-- POLICE_LIGHTS (R107). -/
def planPoliceLights (duration speed : Scalar) (s : State) : Plan :=
  whenReady s (whenTimes [duration, speed] (.ok (policeScript duration speed s ++ [.reply .done])))

/-- POLICE_LIGHTS (R107). -/
def execPoliceLights (duration speed : Scalar) (s : State) : Host.Outcome State Fault Refusal :=
  perform (planPoliceLights duration speed s) s

/-- The colours of FADE_BETWEEN_COLORS (R108): `steps + 1` of them, the ratio going from 0 to 1. -/
def fadeColours (c1 c2 : Colour) (steps : Int) : List Colour :=
  (List.range (steps.toNat + 1)).map fun k : Nat =>
    ⟨fadeChannel c1.r c2.r ((k : Scalar) / (steps : Scalar)), fadeChannel c1.g c2.g ((k : Scalar) / (steps : Scalar)),
      fadeChannel c1.b c2.b ((k : Scalar) / (steps : Scalar))⟩

/-- FADE_BETWEEN_COLORS (R108). -/
def fadeScript (q : Scalar) (c1 c2 : Colour) (steps : Int) (duration : Scalar) : List Micro :=
  (fadeColours c1 c2 steps).flatMap (emitAndWait q (duration / (steps : Scalar)))

/-- FADE_BETWEEN_COLORS (R108); fewer than one step is refused, and so is a negative duration (R102, D23). R130 gives the two
tests no order; that the steps are tested first is a DESIGN CHOICE (log 27). -/
def planFadeBetweenColors (c1 c2 : Colour) (steps : Int) (duration : Scalar) (s : State) : Plan :=
  whenReady s (if steps < 1 then .error .stepsBelowOne
    else whenTimes [duration] (.ok (fadeScript s.brightness c1 c2 steps duration ++ [.reply .done])))

/-- FADE_BETWEEN_COLORS (R108). -/
def execFadeBetweenColors (c1 c2 : Colour) (steps : Int) (duration : Scalar) (s : State) :
    Host.Outcome State Fault Refusal :=
  perform (planFadeBetweenColors c1 c2 steps duration s) s

end Sys2Proof.Machine
end

