-- ==== Sys2Proof/Machine/Dispatch.lean ====
section
/-! DEFINITION. The dispatch: one arm per operation of 30_encoding.md R56. -/

namespace Sys2Proof.Machine

def exec (i : Instr) (s : State) : Host.Outcome State Fault Refusal :=
  match i with
  | .sendBit b => Sys2Proof.Machine.execSendBit b s
  | .sendByte v => Sys2Proof.Machine.execSendByte v s
  | .latch => Sys2Proof.Machine.execLatch s
  | .init p q x => Sys2Proof.Machine.execInit p q x s
  | .emitPixel r g b => Sys2Proof.Machine.execEmitPixel r g b s
  | .setBrightness x => Sys2Proof.Machine.execSetBrightness x s
  | .setColor r g b index => Sys2Proof.Machine.execSetColor r g b index s
  | .setColorHex str => Sys2Proof.Machine.execSetColorHex str s
  | .clear => Sys2Proof.Machine.execClear s
  | .getStatus => Sys2Proof.Machine.execGetStatus s
  | .cleanup => Sys2Proof.Machine.execCleanup s
  | .demoSequence delay => Sys2Proof.Machine.execDemoSequence delay s
  | .breathingEffect r g b cycles duration => Sys2Proof.Machine.execBreathingEffect r g b cycles duration s
  | .rainbow cycles speed => Sys2Proof.Machine.execRainbow cycles speed s
  | .policeLights duration speed => Sys2Proof.Machine.execPoliceLights duration speed s
  | .fadeBetweenColors c1 c2 steps duration => Sys2Proof.Machine.execFadeBetweenColors c1 c2 steps duration s

end Sys2Proof.Machine
end

