-- ==== Sys2Proof/Machine/Flags.lean ====
section
/-! DEFINITION. The block has NO flags, condition codes or predicates (10_state.md R20). What stands here in their place is
the failure taxonomy of 60_exceptions.md R120, R121: names and numbers for how an operation completed. No operation records
them (R121, R123, R124): they classify, and are no state. -/

namespace Sys2Proof.Machine

/-- The numbers of the table after R121 (D18). -/
def codeNumber : OutcomeCode → Nat
  | .ok => 0
  | .eInit => 1
  | .oClamp => 2
  | .oIgnore => 3
  | .oIndex => 4

/-- The scaled channel lies outside 0..255, so that R69 clamps it. -/
def channelClamped (q : Scalar) (c : Int) : Bool :=
  decide (scaleFn c q < 0) || decide (255 < scaleFn c q)

/-- Some channel of the colour is clamped at this brightness (class (a) of R120). -/
def colourClamped (q : Scalar) (c : Colour) : Bool :=
  channelClamped q c.r || channelClamped q c.g || channelClamped q c.b

/-- The brightness operand lies outside [0, 1] (class (a) of R120). -/
def brightnessClamped (x : Scalar) : Bool :=
  decide (x < 0) || decide (1 < x)

/-- The code of emitting some colours at one brightness. -/
def emissionCode (q : Scalar) (cs : List Colour) : OutcomeCode :=
  if cs.any (colourClamped q) then .oClamp else .ok

end Sys2Proof.Machine
end

