-- ==== Sys2Proof/Machine/Plan.lean ====
section
/-! DEFINITION. The plan of every operation in one place (what TERMINATE can cut), and the failure class of a completed
operation (60_exceptions.md R121). -/

namespace Sys2Proof.Machine

/-- The micro-actions of an operation in a state, or the reason the spec refuses it there. -/
def planOf (i : Instr) (s : State) : Plan :=
  match i with
  | .sendBit b => planSendBit b s
  | .sendByte v => planSendByte v s
  | .latch => planLatch s
  | .init p q x => planInit p q x s
  | .emitPixel r g b => planEmitPixel r g b s
  | .setBrightness x => planSetBrightness x s
  | .setColor r g b index => planSetColor r g b index s
  | .setColorHex str => planSetColorHex str s
  | .clear => planClear s
  | .getStatus => planGetStatus s
  | .cleanup => planCleanup s
  | .demoSequence delay => planDemoSequence delay s
  | .breathingEffect r g b cycles duration => planBreathingEffect r g b cycles duration s
  | .rainbow cycles speed => planRainbow cycles speed s
  | .policeLights duration speed => planPoliceLights duration speed s
  | .fadeBetweenColors c1 c2 steps duration => planFadeBetweenColors c1 c2 steps duration s

/-- The row of the table after R121 an operation falls under when the block completes it in this state. No state records
it. -/
def outcomeOf (i : Instr) (s : State) : OutcomeCode :=
  match i with
  | .sendBit _ => .ok
  | .sendByte _ => .ok
  | .latch => .ok
  | .init p q x => if pinsGranted p q s then (if brightnessClamped x then .oClamp else .ok) else .eInit
  | .emitPixel r g b => emissionCode s.brightness [⟨r, g, b⟩]
  | .setBrightness x => if brightnessClamped x then .oClamp else .ok
  | .setColor r g b index =>
    if indexValid index s.ledCount then emissionCode s.brightness [⟨r, g, b⟩] else .oIndex
  | .setColorHex str =>
    match parseHex str with
    | some c => emissionCode s.brightness [c]
    | none => .oIgnore
  | .clear => .ok
  | .getStatus => .ok
  | .cleanup => .ok
  | .demoSequence _ => emissionCode s.brightness palette
  | .breathingEffect r g b cycles _ => emissionCode s.brightness (breathColours ⟨r, g, b⟩ cycles)
  | .rainbow cycles _ => emissionCode s.brightness (rainbowColours cycles)
  | .policeLights _ _ => .ok
  | .fadeBetweenColors c1 c2 steps _ => emissionCode s.brightness (fadeColours c1 c2 steps)

end Sys2Proof.Machine
end

