-- ==== Sys2Proof/Machine/Port.lean ====
section
/-! DEFINITION. What reaches the block from outside (70_reset_and_hazards.md R157): commands, TERMINATE (60_exceptions.md
R128 to R132) and the normal end of the host's program (R135). -/

namespace Sys2Proof.Machine

/-- The command port refuses what selects no operation (R57). -/
def refusalOf : DecodeError → Refusal
  | .unknownOpcode op => .unknownOpcode op
  | .missingOperand _ => .badOperands
  | .wrongType _ => .badOperands
  | .extraOperands => .badOperands

/-- The process exits (R131, R132, R135): the host issues nothing more and gets no result. -/
def leave (s : State) : State :=
  { s with process := .exited, inputs := [], reply := .none }

/-- The teardown hook and the exit after it: CLEANUP runs as the handler, from the state as it stands; nothing is saved and
nothing returns (R131, R132, R135). -/
def teardown (s : State) : State :=
  leave (run (cleanupScript s) s)

/-- The hook, unless a second TERMINATE arrives while its CLEANUP is in flight (R132, D12). -/
def takeTeardown (again : Bool) (s : State) : Host.Outcome State Fault Refusal :=
  if again then .refused .terminateDuringCleanup else .next (teardown s)

/-- TERMINATE recognised inside an operation, after its first `n` micro-actions (R129): the rest is abandoned and the hook
runs. Inside CLEANUP it is refused (R132, D12). An operation the spec refuses never begins. -/
def cutAt (n : Nat) (again : Bool) (i : Instr) (s : State) : Host.Outcome State Fault Refusal :=
  match planOf i s with
  | .error r => .refused r
  | .ok ms => if i = .cleanup then .refused .terminateDuringCleanup else takeTeardown again (run (ms.take n) s)

/-- One input, `s` being the state with it taken off the list. A command is decoded first, cut or not, and the lifecycle is
tested by the operation it selects: R130 puts the lifecycle test first within an operation and places no test of the opcode or
of the operands' number and types; that those come before it, so that they give the reason of a refusal, is a DESIGN CHOICE
(log 20). -/
def serve (input : Input) (s : State) : Host.Outcome State Fault Refusal :=
  match input with
  | .command c =>
    match decode c with
    | .ok i => exec i s
    | .error e => .refused (refusalOf e)
  | .commandCut c n again =>
    match decode c with
    | .ok i => cutAt n again i s
    | .error e => .refused (refusalOf e)
  | .terminate again => takeTeardown again s
  | .exit again => takeTeardown again s

/-- The whole step: after the exit nothing happens any more (R132); with no input the block waits, and nothing happens;
otherwise the next input is served, whole, before the one after it (R39, R152). -/
def stepInput (s : State) : Host.Outcome State Fault Refusal :=
  match s.process with
  | .exited => .next s
  | .running =>
    match s.inputs with
    | [] => .next s
    | input :: rest => serve input { s with inputs := rest }

/-- The host issues this command next (log 5). -/
def issue (c : Command) (s : State) : State :=
  { s with inputs := .command c :: s.inputs, process := .running }

end Sys2Proof.Machine
end

