-- ==== Sys2Proof/Machine/Step.lean ====
section
/-! DEFINITION. One step of the machine, and placing an instruction where the step takes its next one. -/

namespace Sys2Proof.Machine

/-- One input of the host or of the lifecycle collaborator, served whole. -/
def step (s : State) : Host.Outcome State Fault Refusal :=
  stepInput s

/-- The state with an opcode-table word issued as the host's next command. -/
def State.withFetchWord (s : State) (nbits w : Nat) : State :=
  issue (tableCommand nbits w) s

end Sys2Proof.Machine
end

