-- ==== Sys2Proof/Machine/Observe.lean ====
section
/-! DEFINITION. What a receiver on the two lines can sample: RXBITS, derived from TRACE (10_state.md R21, D19). -/

namespace Sys2Proof.Machine

/-- The physical line that `W(L, v)` writes: the registers bind the line space to pins (R11, R12, R23, R30). -/
def lineId (s : State) : Line → Int
  | .data => s.dataPin
  | .clk => s.clockPin

/-- The levels of the two lines. -/
structure Wires where
  data : Level
  clk  : Level
  deriving DecidableEq, Repr

/-- The levels after an event (R17). -/
def wiresAfter (p : Wires) : Event → Wires
  | .w .data v => { p with data := levelOf v }
  | .w .clk v => { p with clk := levelOf v }
  | .d _ => p
  | .wait _ => p
  | .acquire _ _ => p
  | .release _ _ => ⟨.x, .x⟩

/-- The levels after a list of events. -/
def replay (p : Wires) (es : List Event) : Wires :=
  es.foldl wiresAfter p

/-- What an event lets the receiver sample: the data level, if it is a write of 1 to a clock that was low (R21). -/
def sample (p : Wires) (e : Event) : List Level :=
  if e = .w .clk true ∧ p.clk = .low then [p.data] else []

/-- The data levels at the rising edges of the clock, from given levels on (R21). -/
def rxFrom : Wires → List Event → List Level
  | _, [] => []
  | p, e :: es => sample p e ++ rxFrom (wiresAfter p e) es

/-- `RXBITS` of a whole TRACE (R21): before it both lines are X (R24). -/
def rxBits (trace : List Event) : List Level :=
  rxFrom ⟨.x, .x⟩ trace

/-- The levels the state holds. -/
def wiresOf (s : State) : Wires :=
  ⟨s.dataLvl, s.clkLvl⟩

end Sys2Proof.Machine
end

