-- ==== Sys2Proof/Safety.lean ====
section
/-! DEFINITION. The terms claims use: the event lists of the wire formats written from 30_encoding.md, what a run of
emissions leaves, the invariant of the block between two operations (10_state.md R25), and the end of a run (R135, R157).
None of them is used by the machine. -/

namespace Sys2Proof.Machine

/-- Format W-CELL, the table after R46. -/
def cellEvents (b : Bool) : List Event :=
  [.w .data b, .w .clk true, .d .hold, .w .clk false, .d .hold]

/-- The order of the bits of a byte on the wire: cell `k` carries bit `7 - k` (R47). -/
def wireOrder : List Nat := [7, 6, 5, 4, 3, 2, 1, 0]

/-- Format W-BYTE (R47). -/
def byteEvents (v : Byte) : List Event :=
  wireOrder.flatMap fun k => cellEvents (v.getLsbD k)

/-- Format W-FRAME (R48): the bytes in index order, then the latch. -/
def frameEvents (bytes : List Byte) : List Event :=
  bytes.flatMap byteEvents ++ [.d .latch]

/-- The wire bits of some bytes (R49). -/
def wireBits (bytes : List Byte) : List Bool :=
  bytes.flatMap fun v => wireOrder.map fun k => v.getLsbD k

/-- SEQ after `n` more events of the emission (R19). -/
def seqAdvance : Nat → SeqPos → SeqPos
  | 0, p => p
  | n + 1, p => seqAdvance n (seqNext p)

/-- The control byte of a colour at a brightness. -/
def ctrlOf (q : Scalar) (c : Colour) : Byte :=
  controlByte (channelByte q c.r) (channelByte q c.g) (channelByte q c.b)

/-- The twelve bytes that a colour at a brightness puts on the wire (R48, R51). -/
def frameOf (q : Scalar) (c : Colour) : List Byte :=
  frameBytes (ctrlOf q c) (channelByte q c.b) (channelByte q c.g) (channelByte q c.r)

/-- Wire bit `n` of a colour's frame (R49): bit `7 - (n mod 8)` of frame byte `n / 8`. -/
def frameBit (q : Scalar) (c : Colour) (n : Nat) : Bool :=
  ((frameOf q c).getD (n / 8) 0).getLsbD (7 - n % 8)

/-- The colour (0,0,0). -/
def black : Colour := ⟨0, 0, 0⟩

/-- The black frame of R87, R89 as the spec writes it out. -/
def blackBytes : List Byte :=
  [0x00, 0x00, 0x00, 0x00, 0xFF, 0x00, 0x00, 0x00, 0x00, 0x00, 0x00, 0x00]

/-- The least time of one emission: 192 holds and a latch (R75, R156). -/
def emissionTime : Scalar :=
  192 * Config.tHold + Config.tLatch

/-- The state right after one whole emission of a colour (R70): the datapath registers hold what the emission wrote, both
lines are low, SEQ is IDLE, TRACE has grown by the frame, and everything else is as it was. -/
def emitted (q : Scalar) (c : Colour) (s : State) : State :=
  { s with
    chR := channelByte q c.r, chG := channelByte q c.g, chB := channelByte q c.b, ctrl := ctrlOf q c
    sr := 0, bitcnt := 0, seq := .idle, dataLvl := .low, clkLvl := .low
    trace := s.trace ++ frameEvents (frameOf q c), clock := s.clock + emissionTime }

/-- The registers that no emission and no wait writes are the same in both states: the control registers, LIFECYCLE, and all
that belongs to the platform and the host but `reply`. -/
def sameControl (s t : State) : Prop :=
  t.dataPin = s.dataPin ∧ t.clockPin = s.clockPin ∧ t.ledCount = s.ledCount ∧ t.brightness = s.brightness ∧
  t.mode = s.mode ∧ t.lifecycle = s.lifecycle ∧ t.validPins = s.validPins ∧ t.pinSetupOk = s.pinSetupOk ∧
  t.inputs = s.inputs ∧ t.process = s.process

/-- The lines, SEQ and the datapath registers are the same in both states. -/
def sameWire (s t : State) : Prop :=
  t.dataLvl = s.dataLvl ∧ t.clkLvl = s.clkLvl ∧ t.seq = s.seq ∧ t.chR = s.chR ∧ t.chG = s.chG ∧ t.chB = s.chB ∧
  t.ctrl = s.ctrl ∧ t.sr = s.sr ∧ t.bitcnt = s.bitcnt

/-- The lines, SEQ and the datapath registers after some emissions, by the last colour emitted; as before if there was
none. -/
def wireAfter (q : Scalar) (last : Option Colour) (s t : State) : Prop :=
  match last with
  | none => sameWire s t
  | some c =>
    t.dataLvl = .low ∧ t.clkLvl = .low ∧ t.seq = .idle ∧ t.chR = channelByte q c.r ∧ t.chG = channelByte q c.g ∧
    t.chB = channelByte q c.b ∧ t.ctrl = ctrlOf q c ∧ t.sr = 0 ∧ t.bitcnt = 0

/-- The events of an effect's loop: each colour's frame, and a wait after it (R101, D21). -/
def emissionsThenWaits (q d : Scalar) (cs : List Colour) : List Event :=
  cs.flatMap fun c => frameEvents (frameOf q c) ++ [.wait d]

/-- What an effect's loop over some colours leaves (R100, R101): the frames and waits in order, the clock on by
their least time at least (R156), the lines and the datapath as the last emission left them, everything else but `reply` as
it was. -/
def emissionsDone (q d : Scalar) (cs : List Colour) (s t : State) : Prop :=
  sameControl s t ∧ t.draws = s.draws ∧ t.trace = s.trace ++ emissionsThenWaits q d cs ∧
  s.clock + cs.length * (emissionTime + d) ≤ t.clock ∧ wireAfter q cs.getLast? s t

/-- The events of one pair of POLICE_LIGHTS (R107): red, black, blue, black. -/
def pairEvents (q speed : Scalar) : List Event :=
  frameEvents (frameOf q ⟨255, 0, 0⟩) ++ [.wait speed] ++ frameEvents (frameOf q black) ++ [.wait (1 / 20)] ++
  frameEvents (frameOf q ⟨0, 0, 255⟩) ++ [.wait speed] ++ frameEvents (frameOf q black) ++ [.wait (1 / 20)]

/-- The least time of one pair of POLICE_LIGHTS: four emissions, two waits of `speed`, two of 0.05 s (R107, R156). -/
def pairTime (speed : Scalar) : Scalar :=
  4 * emissionTime + 2 * speed + 1 / 10

/-- How long after the first reading of the clock the check before pair `k` (counted from 0) reads it: `k` pairs, and the
free lag of each of the `k + 1` readings since, `n` being the number of free values drawn before them (R107, R136). -/
def checkElapsed (speed : Scalar) (n : Nat) : Nat → Scalar
  | 0 => Config.lag n
  | k + 1 => checkElapsed speed n k + pairTime speed + Config.lag (n + (k + 1))

/-- No line write follows a clock edge before a pause has (R149). -/
def edgesHeld : List Event → Bool
  | [] => true
  | [.w .clk _] => false
  | .w .clk _ :: .d .hold :: es => edgesHeld es
  | .w .clk _ :: _ :: _ => false
  | _ :: es => edgesHeld es

/-- Some channel of the colour, scaled, lies outside 0..255 (class (a) of R120; R51). -/
def clampsChannel (q : Scalar) (c : Colour) : Prop :=
  ∃ ch ∈ [c.r, c.g, c.b], ⌊(ch : Scalar) * q⌋ < 0 ∨ 255 < ⌊(ch : Scalar) * q⌋

/-- The outcome is O_CLAMP where an operand is clamped and OK where none is (the table after R121). -/
def clampCode (o : OutcomeCode) (clamped : Prop) : Prop :=
  (clamped → o = .oClamp) ∧ (¬ clamped → o = .ok)

/-- One of the four effects whose frames depend on the operands and BRIGHTNESS alone (R109). -/
def isUntimedEffect : Instr → Bool
  | .demoSequence _ => true
  | .breathingEffect _ _ _ _ _ => true
  | .rainbow _ _ => true
  | .fadeBetweenColors _ _ _ _ => true
  | _ => false

/-- The block between two operations (R25 with R11 to R17): LED_COUNT and MODE read as they are hardwired, BRIGHTNESS is
legal, SEQ is IDLE, the lines stand as TRACE left them, low in READY and undriven otherwise, and in READY the two pins
differ. -/
def Inv (s : State) : Prop :=
  s.ledCount = 1 ∧ s.mode = Config.modeValue ∧ 0 ≤ s.brightness ∧ s.brightness ≤ 1 ∧ s.seq = .idle ∧
  replay ⟨.x, .x⟩ s.trace = wiresOf s ∧
  (s.lifecycle = .ready → s.dataLvl = .low ∧ s.clkLvl = .low ∧ s.dataPin ≠ s.clockPin) ∧
  (s.lifecycle ≠ .ready → s.dataLvl = .x ∧ s.clkLvl = .x)

/-- The run is over (R135, R157): the process has exited and the driver is torn down or was never up. -/
def runFinished (s : State) : Prop :=
  s.process = .exited ∧ (s.lifecycle = .released ∨ s.lifecycle = .failed ∨ s.lifecycle = .unbuilt)

/-- The lifecycle states the block can go to in one input (R134): UNBUILT to READY or FAILED by INIT, or to RELEASED when
TERMINATE cuts an INIT that has reached READY (R132); READY to RELEASED; RELEASED and FAILED are never left. -/
def lifecycleMoves : Lifecycle → Lifecycle → Bool
  | .unbuilt, _ => true
  | .ready, .ready => true
  | .ready, .released => true
  | .ready, _ => false
  | .released, .released => true
  | .released, _ => false
  | .failed, .failed => true
  | .failed, _ => false

end Sys2Proof.Machine
end

