-- ==== Sys2Proof/Certificates/Slice0/Obligations.lean ====
section
/-! DEFINITION. What is claimed of the model, for the provers: statements taken from the numbered rules of spec/.

The fields `clock`, `draws`, `inputs`, `process` and `reply` of State are the model's own (log 5 to 8): a clause about one of
them states the model's convention, and no rule is cited for it. Where an equation says `clock := t.clock`, and the like for a
transient register, the statement leaves that field open. What an emission leaves in CH_R, CH_G, CH_B, CTRL, SR and BITCNT,
wherever a statement says it, is decision D2 of the spec and log 9; a least time rests on R75 and R156. -/

open Sys2Proof Sys2Proof.Machine

/-! ### Commands -/

/-- 30_encoding.md R55, R56 (decision D1 of the spec): no operand of a command is dropped; what the host writes for an
operation is read back as that operation, whatever its operands. -/
def Obligations.EncodeThenDecodeGivesTheInstruction : Prop :=
  ∀ (i : Instr) (c : Command), encode i = some c → decode c = .ok i

/-- 30_encoding.md R56 (decision D1 of the spec): the host cannot issue the three micro-operations, and a command selects
the operation of its opcode byte. -/
def Obligations.DecodingGivesOnlyHostOperations : Prop :=
  ∀ (c : Command) (i : Instr), decode c = .ok i →
    i.hostIssued = true ∧ ∃ c', encode i = some c' ∧ c'.opcode = c.opcode

/-- 30_encoding.md R57 (decision D1 of the spec): an opcode byte outside the table is refused, whatever the operands and the
state of the block (that the lifecycle is not tested before it is log 20). -/
def Obligations.UnknownOpcodeIsRefused : Prop :=
  ∀ (op : Byte) (vs : List Value) (rest : List Input) (s : State),
    op.toNat ∉ [0x00, 0x01, 0x02, 0x03, 0x04, 0x05, 0x06, 0x07, 0x10, 0x11, 0x12, 0x13, 0x14] →
    s.process = .running → s.inputs = .command ⟨op, vs⟩ :: rest →
    step s = .refused (.unknownOpcode op)

/-- 30_encoding.md R54 (the opcode bytes are decision D1 of the spec; the two ways to omit an operand, at the end or by an
explicit omission, and that there is none too many are log 20, the model's choice): an omitted operand takes its default
where the spec gives one, and no operand may be omitted elsewhere: not r, g, b of SET_COLOR, and none of EMIT_PIXEL,
SET_BRIGHTNESS, SET_COLOR_HEX and the effects. -/
def Obligations.OmittedOperandsTakeTheirDefaults : Prop :=
  let int (n : Option Int) : Value := n.elim .omitted .int
  let scalar (q : Option Scalar) : Value := q.elim .omitted .scalar
  (∀ (p q : Option Int) (x : Option Scalar),
    decode ⟨0x00, [int p, int q, scalar x]⟩ = .ok (.init (p.getD 23) (q.getD 24) (x.getD 1))) ∧
  (∀ (p q : Option Int), decode ⟨0x00, [int p, int q]⟩ = .ok (.init (p.getD 23) (q.getD 24) 1)) ∧
  (∀ (p : Option Int), decode ⟨0x00, [int p]⟩ = .ok (.init (p.getD 23) 24 1)) ∧
  decode ⟨0x00, []⟩ = .ok (.init 23 24 1) ∧
  (∀ (r g b : Int) (n : Option Int),
    decode ⟨0x03, [.int r, .int g, .int b, int n]⟩ = .ok (.setColor r g b (n.getD 0))) ∧
  (∀ (r g b : Int), decode ⟨0x03, [.int r, .int g, .int b]⟩ = .ok (.setColor r g b 0)) ∧
  (∀ (vs : List Value) (i : Instr), decode ⟨0x03, vs⟩ = .ok i →
    3 ≤ vs.length ∧ vs.length ≤ 4 ∧ Value.omitted ∉ vs.take 3) ∧
  (∀ (op : Byte) (vs : List Value) (i : Instr),
    op.toNat ∈ [0x01, 0x02, 0x04, 0x10, 0x11, 0x12, 0x13, 0x14] → decode ⟨op, vs⟩ = .ok i →
    vs.length = operandCount op ∧ Value.omitted ∉ vs)

/-- 30_encoding.md R56 (decision D1 of the spec), 95_test_vectors.md section 3: commands as the spec writes them. -/
def Obligations.CommandsOfTheSpecDecode : Prop :=
  decode ⟨0x00, [.int 23, .int 24, .scalar 1]⟩ = .ok (.init 23 24 1) ∧
  decode ⟨0x01, [.int 1000, .int (-5), .int 300]⟩ = .ok (.emitPixel 1000 (-5) 300) ∧
  decode ⟨0x03, [.int 1, .int 2, .int 3, .int 5]⟩ = .ok (.setColor 1 2 3 5) ∧
  decode ⟨0x07, []⟩ = .ok .cleanup ∧
  decode ⟨0x14, [.colour ⟨0, 0, 0⟩, .colour ⟨255, 255, 255⟩, .int 4, .scalar 1]⟩ =
    .ok (.fadeBetweenColors ⟨0, 0, 0⟩ ⟨255, 255, 255⟩ 4 1)

/-! ### Arithmetic -/

/-- 40_encoder_ops.md R68 (decision D4 of the spec): the bounds of a scaled channel. -/
def Obligations.ScaledChannelBounds : Prop :=
  ∀ (c : Int) (q : Scalar), 0 ≤ q → q ≤ 1 →
    (0 ≤ c → 0 ≤ scaleFn c q ∧ scaleFn c q ≤ c) ∧
    (c < 0 → c ≤ scaleFn c q ∧ scaleFn c q ≤ 0 ∧ (q ≠ 0 → scaleFn c q < 0)) ∧
    (q = 1 → scaleFn c q = c) ∧ (q = 0 ∨ c = 0 → scaleFn c q = 0)

/-- 40_encoder_ops.md R69, 30_encoding.md R51 (decision D4 of the spec, conflict C2): the byte of a channel is its scaled
value clamped to 0..255, the clamping is after the scaling, and truncating toward zero instead of taking the floor gives the
same byte. -/
def Obligations.ChannelByteIsScaledThenClamped : Prop :=
  ∀ (c : Int) (q : Scalar), 0 ≤ q →
    (⌊(c : Scalar) * q⌋ < 0 → (channelByte q c).toNat = 0) ∧
    (255 < ⌊(c : Scalar) * q⌋ → (channelByte q c).toNat = 255) ∧
    (0 ≤ ⌊(c : Scalar) * q⌋ → ⌊(c : Scalar) * q⌋ ≤ 255 → ((channelByte q c).toNat : Int) = ⌊(c : Scalar) * q⌋) ∧
    ((channelByte q c).toNat : Int) = max 0 (min 255 ((c * q.num).tdiv q.den))

/-- 30_encoding.md R52: the field of every byte value; and that it is the complement of the byte's top two bits, which R52
marks as the spec's own derivation. -/
def Obligations.ControlFieldTable : Prop :=
  ∀ ch : Byte, (controlField ch).toNat = 3 - ch.toNat / 64 ∧
    controlField ch = 3 - ((ch >>> 6) &&& 3) ∧
    (ch.toNat ≤ 63 → controlField ch = 3) ∧ (64 ≤ ch.toNat → ch.toNat ≤ 127 → controlField ch = 2) ∧
    (128 ≤ ch.toNat → ch.toNat ≤ 191 → controlField ch = 1) ∧ (192 ≤ ch.toNat → controlField ch = 0) ∧
    (controlField ch).getLsbD 1 = !ch.getLsbD 7 ∧ (controlField ch).getLsbD 0 = !ch.getLsbD 6

/-- 40_encoder_ops.md R71, 30_encoding.md R50 (the order of the fields as log 23 has it): the control byte, as a sum of its
fields; and bit by bit, which R71 marks as the spec's own derivation from R52. -/
def Obligations.ControlByteHoldsInvertedTopBits : Prop :=
  ∀ chR chG chB : Byte,
    let v := controlByte chR chG chB
    v = 0xC0 ||| ((3 - ((chR >>> 6) &&& 3)) <<< 4) ||| ((3 - ((chG >>> 6) &&& 3)) <<< 2) ||| (3 - ((chB >>> 6) &&& 3)) ∧
    v.toNat = 192 + 16 * (3 - chR.toNat / 64) + 4 * (3 - chG.toNat / 64) + (3 - chB.toNat / 64) ∧
    192 ≤ v.toNat ∧
    [v.getLsbD 7, v.getLsbD 6, v.getLsbD 5, v.getLsbD 4, v.getLsbD 3, v.getLsbD 2, v.getLsbD 1, v.getLsbD 0] =
      [true, true, !chR.getLsbD 7, !chR.getLsbD 6, !chG.getLsbD 7, !chG.getLsbD 6, !chB.getLsbD 7, !chB.getLsbD 6]

/-- 30_encoding.md R57: the 64 values 0xC0 .. 0xFF are the control bytes that some colour produces, and there are no others.
-/
def Obligations.ControlBytesAreTheTopSixtyFour : Prop :=
  ∀ v : Byte, (∃ (q : Scalar) (c : Colour), 0 ≤ q ∧ q ≤ 1 ∧ ctrlOf q c = v) ↔ 192 ≤ v.toNat

/-- 41_driver_ops.md R86, 30_encoding.md R53 (decision D13 of the spec): the value of a hex digit in either letter case, and
that no other character is one; when a string is well formed, and the channels it gives. -/
def Obligations.HexColourParsing : Prop :=
  (∀ k : Nat, k < 10 → hexDigit (Char.ofNat (48 + k)) = some (k : Int)) ∧
  (∀ k : Nat, k < 6 → hexDigit (Char.ofNat (97 + k)) = some (10 + k : Int) ∧
    hexDigit (Char.ofNat (65 + k)) = some (10 + k : Int)) ∧
  (∀ c : Char, (hexDigit c).isSome = true →
    (48 ≤ c.toNat ∧ c.toNat ≤ 57) ∨ (97 ≤ c.toNat ∧ c.toNat ≤ 102) ∨ (65 ≤ c.toNat ∧ c.toNat ≤ 70)) ∧
  ∀ (str : List Char) (r g b : Int),
    parseHex str = some ⟨r, g, b⟩ ↔
      ∃ t, (str = '#' :: t ∨ (str = t ∧ t.head? ≠ some '#')) ∧ t.length = 6 ∧
        ∃ h : List Int, t.map hexDigit = h.map some ∧
          r = 16 * h.getD 0 0 + h.getD 1 0 ∧ g = 16 * h.getD 2 0 + h.getD 3 0 ∧ b = 16 * h.getD 4 0 + h.getD 5 0

/-- 42_effects.md R105 (conflicts C1 and C7 as the spec resolves them): the three segments of WHEEL, its values at their
ends, and the range of its components. -/
def Obligations.WheelSegments : Prop :=
  (∀ i : Int, 0 ≤ i → i ≤ 84 → wheel i = ⟨3 * i, 255 - 3 * i, 0⟩) ∧
  (∀ i : Int, 85 ≤ i → i ≤ 169 → wheel i = ⟨255 - 3 * (i - 85), 0, 3 * (i - 85)⟩) ∧
  (∀ i : Int, 170 ≤ i → i ≤ 255 → wheel i = ⟨0, 3 * (i - 170), 255 - 3 * (i - 170)⟩) ∧
  (∀ i : Int, 0 ≤ i → i ≤ 255 → (0 ≤ (wheel i).r ∧ (wheel i).r ≤ 255) ∧ (0 ≤ (wheel i).g ∧ (wheel i).g ≤ 255) ∧
    (0 ≤ (wheel i).b ∧ (wheel i).b ≤ 255)) ∧
  wheel 0 = ⟨0, 255, 0⟩ ∧ wheel 84 = ⟨252, 3, 0⟩ ∧ wheel 85 = ⟨255, 0, 0⟩ ∧ wheel 169 = ⟨3, 0, 252⟩ ∧
  wheel 170 = ⟨0, 0, 255⟩ ∧ wheel 254 = ⟨0, 252, 3⟩ ∧ wheel 255 = ⟨0, 255, 0⟩

/-! ### The encoder -/

/-- 40_encoder_ops.md R65 (decision D19 of the spec for RXBITS): SEND_BIT in READY, from any line levels. -/
def Obligations.SendBitSendsOneCell : Prop :=
  ∀ (b : Bool) (s : State), s.lifecycle = .ready →
    ∃ t, exec (.sendBit b) s = .next t ∧
      t = { s with dataLvl := levelOf b, clkLvl := .low, seq := seqAdvance 5 s.seq,
                   trace := s.trace ++ [.w .data b, .w .clk true, .d .hold, .w .clk false, .d .hold],
                   clock := t.clock } ∧
      s.clock + 2 * (5 / 1000000) ≤ t.clock ∧
      rxFrom (wiresOf s) [.w .data b, .w .clk true, .d .hold, .w .clk false, .d .hold] =
        if s.clkLvl = .low then [levelOf b] else []

/-- 40_encoder_ops.md R66 (decision D2 of the spec for SR and BITCNT): SEND_BYTE in READY: eight cells, the bit `v[7 - k]`
in cell `k`; SR and BITCNT end at 0. -/
def Obligations.SendByteSendsEightCells : Prop :=
  ∀ (v : Byte) (s : State), s.lifecycle = .ready →
    ∃ t, exec (.sendByte v) s = .next t ∧
      t = { s with dataLvl := levelOf (v.getLsbD 0), clkLvl := .low, seq := seqAdvance 40 s.seq, sr := 0, bitcnt := 0,
                   trace := s.trace ++ (List.range 8).flatMap (fun k : Nat => cellEvents (v.getLsbD (7 - k))),
                   clock := t.clock } ∧
      s.clock + 16 * (5 / 1000000) ≤ t.clock

/-- 40_encoder_ops.md R67 (decisions D3 and D5 of the spec): LATCH in READY: one pause, the lines as they were, and SEQ one
event on. -/
def Obligations.LatchIsOnePause : Prop :=
  ∀ s : State, s.lifecycle = .ready →
    ∃ t, exec .latch s = .next t ∧
      t = { s with seq := seqNext s.seq, trace := s.trace ++ [.d .latch], clock := t.clock } ∧
      s.clock + Config.tLatch ≤ t.clock ∧ seqNext .latch = .idle ∧ (0 : Scalar) ≤ Config.tLatch

/-- 40_encoder_ops.md R70, R76 (decisions D2 and D4 of the spec): EMIT_PIXEL in READY completes for every three integers; it
sends the frame of the scaled and clamped channels and writes the datapath, the lines, SEQ and TRACE, and nothing else. -/
def Obligations.EmitPixelSendsItsFrame : Prop :=
  ∀ (r g b : Int) (s : State), s.lifecycle = .ready →
    let R := channelByte s.brightness r
    let G := channelByte s.brightness g
    let B := channelByte s.brightness b
    let C := 0xC0 ||| ((3 - ((R >>> 6) &&& 3)) <<< 4) ||| ((3 - ((G >>> 6) &&& 3)) <<< 2) ||| (3 - ((B >>> 6) &&& 3))
    (R.toNat : Int) = max 0 (min 255 ⌊(r : Scalar) * s.brightness⌋) ∧
    (G.toNat : Int) = max 0 (min 255 ⌊(g : Scalar) * s.brightness⌋) ∧
    (B.toNat : Int) = max 0 (min 255 ⌊(b : Scalar) * s.brightness⌋) ∧
    ∃ t, exec (.emitPixel r g b) s = .next t ∧
      t = { s with chR := R, chG := G, chB := B, ctrl := C, sr := 0, bitcnt := 0, seq := .idle, dataLvl := .low,
                   clkLvl := .low,
                   trace := s.trace ++ frameEvents [0x00, 0x00, 0x00, 0x00, C, B, G, R, 0x00, 0x00, 0x00, 0x00],
                   clock := t.clock, reply := .done } ∧
      s.clock + (192 * (5 / 1000000) + Config.tLatch) ≤ t.clock

/-- 40_encoder_ops.md R75: the events of one emission, counted; its time; what RXBITS grows by. -/
def Obligations.EmissionCounts : Prop :=
  ∀ (q : Scalar) (c : Colour),
    let es := frameEvents (frameOf q c)
    let rx := rxFrom ⟨.low, .low⟩ es
    es.length = 481 ∧ es.count (.w .data false) + es.count (.w .data true) = 96 ∧ es.count (.w .clk true) = 96 ∧
    es.count (.w .clk false) = 96 ∧ es.count (.d .hold) = 192 ∧ es.count (.d .latch) = 1 ∧
    (es.map pauseOf).sum = 192 * (5 / 1000000) + Config.tLatch ∧
    rx.length = 96 ∧ rx.take 32 = List.replicate 32 .low ∧ rx.drop 64 = List.replicate 32 .low ∧
    rx[32]? = some .high ∧ rx[33]? = some .high

/-- 30_encoding.md R49 (decision D19 of the spec): the wire bits of a frame sent from a low clock, numbered in the order
they are sent. -/
def Obligations.FrameBitsReachTheReceiver : Prop :=
  ∀ (q : Scalar) (c : Colour) (p : Wires), p.clk = .low →
    let bits := rxFrom p (frameEvents (frameOf q c))
    bits.length = 96 ∧
    (∀ n < 96, bits[n]? = some (levelOf (((frameOf q c).getD (n / 8) 0).getLsbD (7 - n % 8)))) ∧
    bits = List.replicate 32 .low ++ (wireBits [ctrlOf q c, channelByte q c.b, channelByte q c.g, channelByte q c.r]).map levelOf
      ++ List.replicate 32 .low

/-- 60_exceptions.md R131: a frame sent from a high clock (after a TERMINATE that cut a cell) gives the receiver 95 bits, all
but the first. -/
def Obligations.FrameFromHighClockLosesOneBit : Prop :=
  ∀ (q : Scalar) (c : Colour) (d : Level),
    rxFrom ⟨d, .high⟩ (frameEvents (frameOf q c)) = (rxFrom ⟨.low, .low⟩ (frameEvents (frameOf q c))).tail ∧
    (rxFrom ⟨d, .high⟩ (frameEvents (frameOf q c))).length = 95

/-- 60_exceptions.md R129 (decisions D3 and D11 of the spec; cuts as log 16 and the start of SEQ as log 28 has them), the
table after it: the line levels wherever an emission is cut, by the value of SEQ. Cell `k` carries wire bit `k`. -/
def Obligations.LineLevelsAtEveryCut : Prop :=
  ∀ (r g b : Int) (s : State) (ms : List Micro) (n : Nat),
    s.dataLvl = .low → s.clkLvl = .low → s.seq = .idle → planOf (.emitPixel r g b) s = .ok ms →
    let t := run (ms.take n) s
    match t.seq with
    | .idle => t.dataLvl = .low ∧ t.clkLvl = .low
    | .latch => t.dataLvl = .low ∧ t.clkLvl = .low
    | .cell byte bit phase =>
      let k := 8 * byte.val + (7 - bit.val)
      t.clkLvl = (if phase = 2 ∨ phase = 3 then .high else .low) ∧
      (phase ≠ 0 → t.dataLvl = levelOf (frameBit s.brightness ⟨r, g, b⟩ k)) ∧
      (phase = 0 → t.dataLvl = if k = 0 then .low else levelOf (frameBit s.brightness ⟨r, g, b⟩ (k - 1)))

/-- 70_reset_and_hazards.md R149: in every operation but INIT, whose forcing writes precede the first frame, each clock edge
is followed by a hold before the next line write. -/
def Obligations.EveryClockEdgeIsHeld : Prop :=
  ∀ (i : Instr) (s t : State), (∀ p q x, i ≠ .init p q x) → exec i s = .next t →
    ∃ es, t.trace = s.trace ++ es ∧ edgesHeld es = true

/-! ### The driver -/

/-- 41_driver_ops.md R80 (decisions D6 to D9 and D17 of the spec): INIT, its tests in order, and what a successful one
leaves: the registers of the reset table, both lines low, the reset frame sent. The transient registers are left open, as
that table leaves them. -/
def Obligations.InitConstructsTheDriver : Prop :=
  ∀ (p q : Int) (x : Scalar) (s : State),
    (s.lifecycle ≠ .unbuilt → exec (.init p q x) s = .refused .alreadyConstructed) ∧
    (s.lifecycle = .unbuilt → p = q → exec (.init p q x) s = .refused .samePin) ∧
    (s.lifecycle = .unbuilt → p ≠ q → s.pinSetupOk = true → pinIn p s.validPins = true → pinIn q s.validPins = true →
      ∃ t, exec (.init p q x) s = .next t ∧
        t = { s with dataPin := p, clockPin := q, brightness := max 0 (min 1 x), lifecycle := .ready,
                     dataLvl := .low, clkLvl := .low, seq := .idle,
                     trace := s.trace ++ ([.acquire p q, .w .data false, .w .clk false] ++
                       frameEvents [0x00, 0x00, 0x00, 0x00, 0xFF, 0x00, 0x00, 0x00, 0x00, 0x00, 0x00, 0x00]),
                     chR := t.chR, chG := t.chG, chB := t.chB, ctrl := t.ctrl, sr := t.sr, bitcnt := t.bitcnt,
                     clock := t.clock, reply := .done } ∧
        s.clock + emissionTime ≤ t.clock) ∧
    (s.lifecycle = .unbuilt → p ≠ q →
      (s.pinSetupOk = false ∨ pinIn p s.validPins = false ∨ pinIn q s.validPins = false) →
      ∃ t, exec (.init p q x) s = .next t ∧ t.lifecycle = .failed ∧ t.reply = .raised .eInit ∧ t.trace = s.trace)

/-- 41_driver_ops.md R81, 60_exceptions.md R122: taking E_INIT leaves the lines, TRACE and SEQ as they were and the hardwired
registers and the host's and platform's side as they are; BRIGHTNESS is some legal value (log 8, log 15: the model's choice
where R81 says unspecified); afterwards only CLEANUP has a meaning (decision D9 of the spec), and it does nothing (decision
D10, log 18). -/
def Obligations.InitFailureIsFatal : Prop :=
  ∀ (p q : Int) (x : Scalar) (s : State), s.lifecycle = .unbuilt → p ≠ q → pinsGranted p q s = false →
    ∃ t, exec (.init p q x) s = .next t ∧
      t.lifecycle = .failed ∧ t.reply = .raised .eInit ∧ t.trace = s.trace ∧ t.dataLvl = s.dataLvl ∧
      t.clkLvl = s.clkLvl ∧ t.seq = s.seq ∧ t.ledCount = s.ledCount ∧ t.mode = s.mode ∧ t.validPins = s.validPins ∧
      t.pinSetupOk = s.pinSetupOk ∧ t.inputs = s.inputs ∧ t.process = s.process ∧ t.clock = s.clock ∧
      0 ≤ t.brightness ∧ t.brightness ≤ 1 ∧
      exec .cleanup t = .next { t with reply := .done } ∧
      (∀ i, i ≠ .cleanup → ∃ r, exec i t = .refused r)

/-- 60_exceptions.md R122 (that a micro-operation leaves the reply alone is log 19): only INIT raises, and only when pin
set-up fails; a reply that says otherwise was there before and the operation is one that gives none. -/
def Obligations.OnlyAFailedInitRaises : Prop :=
  ∀ (i : Instr) (s t : State) (e : OutcomeCode), exec i s = .next t → t.reply = .raised e →
    (e = .eInit ∧ ∃ p q x, i = .init p q x ∧ s.lifecycle = .unbuilt ∧ pinsGranted p q s = false) ∨
    (i.hostIssued = false ∧ s.reply = .raised e)

/-- 41_driver_ops.md R82: SET_BRIGHTNESS in READY clamps, stores and answers, and touches nothing else: no event; the first
emission after it uses the new value. -/
def Obligations.SetBrightnessClampsAndStores : Prop :=
  ∀ (x : Scalar) (s : State), s.lifecycle = .ready →
    (x < 0 → exec (.setBrightness x) s = .next { s with brightness := 0, reply := .scalar 0 }) ∧
    (1 < x → exec (.setBrightness x) s = .next { s with brightness := 1, reply := .scalar 1 }) ∧
    (0 ≤ x → x ≤ 1 → exec (.setBrightness x) s = .next { s with brightness := x, reply := .scalar x }) ∧
    ∀ r g b : Int, ∃ t u, exec (.setBrightness x) s = .next t ∧ exec (.emitPixel r g b) t = .next u ∧
      u.trace = s.trace ++ frameEvents (frameOf (max 0 (min 1 x)) ⟨r, g, b⟩)

/-- 41_driver_ops.md R84 (decision D14 of the spec): SET_COLOR in READY: the index test first, then what EMIT_PIXEL does,
and the Boolean. -/
def Obligations.SetColorValidatesItsIndex : Prop :=
  ∀ (r g b index : Int) (s : State), s.lifecycle = .ready →
    (0 ≤ index → index < s.ledCount →
      ∃ t, exec (.emitPixel r g b) s = .next t ∧ exec (.setColor r g b index) s = .next { t with reply := .bool true }) ∧
    (index < 0 ∨ s.ledCount ≤ index →
      exec (.setColor r g b index) s = .next { s with reply := .bool false }) ∧
    (s.ledCount = 1 → ((0 ≤ index ∧ index < s.ledCount) ↔ index = 0))

/-- 41_driver_ops.md R85 (decision D25 of the spec): SET_COLOR_HEX in READY: a malformed string does nothing and is not
reported; a well-formed one does what SET_COLOR at index 0 does, and the host gets no result. -/
def Obligations.SetColorHexSendsOrIgnores : Prop :=
  ∀ (str : List Char) (s : State), s.lifecycle = .ready →
    (parseHex str = none → exec (.setColorHex str) s = .next { s with reply := .done }) ∧
    (∀ c, parseHex str = some c → 0 ≤ c.r ∧ c.r ≤ 255 ∧ 0 ≤ c.g ∧ c.g ≤ 255 ∧ 0 ≤ c.b ∧ c.b ≤ 255 ∧
      ∃ t, exec (.setColor c.r c.g c.b 0) s = .next t ∧ exec (.setColorHex str) s = .next { t with reply := .done })

/-- 41_driver_ops.md R87 (the datapath registers after it: decision D2 of the spec and log 9; its least time:
40_encoder_ops.md R75): CLEAR in READY sends the same twelve bytes at every brightness and leaves BRIGHTNESS alone. -/
def Obligations.ClearSendsTheBlackFrame : Prop :=
  ∀ s : State, s.lifecycle = .ready →
    ∃ t, exec .clear s = .next t ∧ exec (.emitPixel 0 0 0) s = .next t ∧
      t = { s with chR := 0, chG := 0, chB := 0, ctrl := 0xFF, sr := 0, bitcnt := 0, seq := .idle, dataLvl := .low,
                   clkLvl := .low,
                   trace := s.trace ++
                     frameEvents [0x00, 0x00, 0x00, 0x00, 0xFF, 0x00, 0x00, 0x00, 0x00, 0x00, 0x00, 0x00],
                   clock := t.clock, reply := .done } ∧
      s.clock + emissionTime ≤ t.clock

/-- 41_driver_ops.md R88 (decision D16 of the spec): GET_STATUS in READY answers the five fields and changes nothing; a
second call answers the same; in every state of a run `led_count` is 1 and `mode` is MODE_VALUE. -/
def Obligations.GetStatusIsAReadOnlySnapshot : Prop :=
  ∀ s : State, s.lifecycle = .ready →
    ∃ t, exec .getStatus s = .next t ∧
      t = { s with reply := .status ⟨s.dataPin, s.clockPin, s.ledCount, s.brightness, s.mode⟩ } ∧
      exec .getStatus t = .next t ∧ (Inv s → s.ledCount = 1 ∧ s.mode = Config.modeValue)

/-- 41_driver_ops.md R89 (decision D24 of the spec): the first CLEANUP: the black frame, then the release; the pins and
BRIGHTNESS keep their values. The transient registers are left open, as the reset table leaves them. -/
def Obligations.CleanupBlacksOutAndReleases : Prop :=
  ∀ s : State, s.lifecycle = .ready →
    ∃ t, exec .cleanup s = .next t ∧
      t = { s with lifecycle := .released, dataLvl := .x, clkLvl := .x, seq := .idle,
                   trace := s.trace ++
                     (frameEvents [0x00, 0x00, 0x00, 0x00, 0xFF, 0x00, 0x00, 0x00, 0x00, 0x00, 0x00, 0x00] ++
                       [.release s.dataPin s.clockPin]),
                   chR := t.chR, chG := t.chG, chB := t.chB, ctrl := t.ctrl, sr := t.sr, bitcnt := t.bitcnt,
                   clock := t.clock, reply := .done } ∧
      s.clock + emissionTime ≤ t.clock

/-- 41_driver_ops.md R90 (decision D10 of the spec): every other CLEANUP does nothing and returns; so does a second one
after a first; nothing leads out of RELEASED, where only CLEANUP has a meaning (60_exceptions.md R134, decision D9). -/
def Obligations.RepeatedCleanupDoesNothing : Prop :=
  ∀ s : State,
    (s.lifecycle ≠ .ready → exec .cleanup s = .next { s with reply := .done }) ∧
    (∀ t, exec .cleanup s = .next t → exec .cleanup t = .next t) ∧
    (∀ i t, s.lifecycle = .released → exec i s = .next t → i = .cleanup ∧ t.lifecycle = .released)

/-! ### The sequencer -/

/-- 42_effects.md R103 (where the waits stand: R101, decision D21 of the spec, log 18; the datapath after the clear:
decision D2 and log 9; the least time: 70_reset_and_hazards.md R156): DEMO_SEQUENCE in READY: the nine colours of the palette
with a wait after each, then the clear. -/
def Obligations.DemoSequenceRunsThePalette : Prop :=
  ∀ (delay : Scalar) (s : State), s.lifecycle = .ready → 0 ≤ delay →
    let cs : List Colour := [⟨255, 0, 0⟩, ⟨255, 165, 0⟩, ⟨255, 255, 0⟩, ⟨0, 255, 0⟩, ⟨0, 255, 255⟩, ⟨0, 0, 255⟩,
      ⟨128, 0, 128⟩, ⟨255, 192, 203⟩, ⟨255, 255, 255⟩]
    ∃ t, exec (.demoSequence delay) s = .next t ∧ sameControl s t ∧ t.draws = s.draws ∧ t.reply = .done ∧
      t.trace = s.trace ++ (emissionsThenWaits s.brightness delay cs ++ frameEvents blackBytes) ∧
      s.clock + (10 * emissionTime + 9 * delay) ≤ t.clock ∧ wireAfter s.brightness (some black) s t

/-- 42_effects.md R104 (decisions D20, D21 and D23 of the spec, log 18): BREATHING_EFFECT in READY: 101 emissions per cycle, the base
colour at `i/50`, `i` rising from 0 to 49 and falling from 50 to 0; the count of cycles below one gives none. -/
def Obligations.BreathingEffectRampsUpAndDown : Prop :=
  ∀ (r g b cycles : Int) (duration : Scalar) (s : State), s.lifecycle = .ready → 0 ≤ duration →
    ∃ (cs : List Colour) (t : State), exec (.breathingEffect r g b cycles duration) s = .next t ∧
      cs.length = 101 * cycles.toNat ∧
      (∀ m k : Nat, m < cycles.toNat → k < 101 →
        let i : Nat := if k ≤ 49 then k else 100 - k
        cs[101 * m + k]? = some ⟨⌊(r : Scalar) * i / 50⌋, ⌊(g : Scalar) * i / 50⌋, ⌊(b : Scalar) * i / 50⌋⟩) ∧
      t.reply = .done ∧ emissionsDone s.brightness (duration / 100) cs s t

/-- 42_effects.md R106 (decisions D21 and D23 of the spec): RAINBOW in READY: 256 emissions per cycle, WHEEL(0) to
WHEEL(255). -/
def Obligations.RainbowSweepsTheWheel : Prop :=
  ∀ (cycles : Int) (speed : Scalar) (s : State), s.lifecycle = .ready → s.ledCount = 1 → 0 ≤ speed →
    ∃ (cs : List Colour) (t : State), exec (.rainbow cycles speed) s = .next t ∧
      cs.length = 256 * cycles.toNat ∧
      (∀ m k : Nat, m < cycles.toNat → k < 256 → cs[256 * m + k]? = some (wheel k)) ∧
      t.reply = .done ∧ emissionsDone s.brightness speed cs s t

/-- 42_effects.md R107 (decisions D22, D27, D29 of the spec; the readings are the model's free lags of log 7): POLICE_LIGHTS
in READY: red, black, blue, black, as many pairs as the readings of the clock allow: pair `k` is done when less than
`duration` has elapsed at the check before it, and the check after the last says so no longer. The bound on the number of
pairs follows. -/
def Obligations.PoliceLightsRunUntilTheDuration : Prop :=
  ∀ (duration speed : Scalar) (s : State), s.lifecycle = .ready → 0 ≤ duration → 0 ≤ speed →
    ∃ (n : Nat) (t : State), exec (.policeLights duration speed) s = .next t ∧
      (∀ k < n, checkElapsed speed (s.draws + 1) k < duration) ∧ duration ≤ checkElapsed speed (s.draws + 1) n ∧
      t.trace = s.trace ++ (List.replicate n (pairEvents s.brightness speed)).flatten ∧
      s.clock + Config.lag s.draws + checkElapsed speed (s.draws + 1) n ≤ t.clock ∧ t.draws = s.draws + (n + 2) ∧
      t.reply = .done ∧ sameControl s t ∧ wireAfter s.brightness (if n = 0 then none else some black) s t ∧
      (1 ≤ n → ((n : Scalar) - 1) * (2 * speed + 1 / 10) < duration) ∧ (duration = 0 → n = 0)

/-- 42_effects.md R108 (decisions D20 and D21 of the spec): FADE_BETWEEN_COLORS in READY: `steps + 1` emissions, the floor
of the whole sum at each ratio; the first is the first colour and the last the second. -/
def Obligations.FadeInterpolatesBetweenColours : Prop :=
  ∀ (c1 c2 : Colour) (steps : Int) (duration : Scalar) (s : State), s.lifecycle = .ready → 1 ≤ steps → 0 ≤ duration →
    ∃ (cs : List Colour) (t : State), exec (.fadeBetweenColors c1 c2 steps duration) s = .next t ∧
      cs.length = steps.toNat + 1 ∧
      (∀ k : Nat, k ≤ steps.toNat →
        let q : Scalar := (k : Scalar) / steps
        cs[k]? = some ⟨⌊(c1.r : Scalar) + (c2.r - c1.r) * q⌋, ⌊(c1.g : Scalar) + (c2.g - c1.g) * q⌋,
          ⌊(c1.b : Scalar) + (c2.b - c1.b) * q⌋⟩) ∧
      cs.head? = some c1 ∧ cs.getLast? = some c2 ∧
      t.reply = .done ∧ emissionsDone s.brightness (duration / steps) cs s t

/-- 42_effects.md R102 (decision D23 of the spec): in READY an effect is refused for a negative time, or for fewer than one
step, exactly when its operands lie there; where both hold, that the steps give the reason is the model's choice (log 27). -/
def Obligations.EffectDomains : Prop :=
  ∀ s : State, s.lifecycle = .ready →
    (∀ delay, exec (.demoSequence delay) s = .refused .negativeTime ↔ delay < 0) ∧
    (∀ r g b cycles duration, exec (.breathingEffect r g b cycles duration) s = .refused .negativeTime ↔ duration < 0) ∧
    (∀ cycles speed, exec (.rainbow cycles speed) s = .refused .negativeTime ↔ speed < 0) ∧
    (∀ duration speed, exec (.policeLights duration speed) s = .refused .negativeTime ↔ duration < 0 ∨ speed < 0) ∧
    (∀ c1 c2 steps duration, exec (.fadeBetweenColors c1 c2 steps duration) s = .refused .stepsBelowOne ↔ steps < 1) ∧
    (∀ c1 c2 steps duration,
      exec (.fadeBetweenColors c1 c2 steps duration) s = .refused .negativeTime ↔ 1 ≤ steps ∧ duration < 0)

/-- 42_effects.md R109: the events of an effect other than POLICE_LIGHTS depend on its operands and BRIGHTNESS alone: from
any two states of a driver in READY with the same BRIGHTNESS it appends the same events. -/
def Obligations.EffectsAreRestartable : Prop :=
  ∀ (i : Instr) (s s' t : State), isUntimedEffect i = true → s.lifecycle = .ready → s'.lifecycle = .ready →
    s.ledCount = s'.ledCount → s.brightness = s'.brightness → exec i s = .next t →
    ∃ t' es, exec i s' = .next t' ∧ t.trace = s.trace ++ es ∧ t'.trace = s'.trace ++ es

/-! ### Lifecycle, TERMINATE and the step -/

/-- 60_exceptions.md R134 (decision D9 of the spec), the table after it: which operation has a meaning in which lifecycle
state, and how the states are left. A READY operation goes on in READY; only CLEANUP, TERMINATE and the hook leave it. -/
def Obligations.LifecycleAdmitsOperations : Prop :=
  (∀ (i : Instr) (s : State), s.lifecycle ≠ .ready → i ≠ .cleanup → (∀ p q x, i ≠ .init p q x) →
    exec i s = .refused .notReady) ∧
  (∀ (p q : Int) (x : Scalar) (s : State), s.lifecycle ≠ .unbuilt → exec (.init p q x) s = .refused .alreadyConstructed) ∧
  (∀ s : State, ∃ t, exec .cleanup s = .next t ∧
    t.lifecycle = if s.lifecycle = .ready then .released else s.lifecycle) ∧
  (∀ (i : Instr) (s t : State), exec i s = .next t → i ≠ .cleanup → s.lifecycle = .ready → t.lifecycle = .ready) ∧
  (∀ (s t : State), step s = .next t → lifecycleMoves s.lifecycle t.lifecycle = true) ∧
  (∀ (s : State) (rest : List Input), s.process = .running → s.inputs = .terminate false :: rest →
    ∃ t, step s = .next t ∧ t.process = .exited ∧
      t.lifecycle = if s.lifecycle = .ready then .released else s.lifecycle)

/-- 60_exceptions.md R131 (the transient registers as log 9 has them; the undriven lines are decision D24 of the spec, that
nothing happens outside READY is D10, log 18; the dropped inputs are log 17): TERMINATE between two operations. In READY the
black frame and the release, and the process exits; in every other lifecycle state nothing but the exit. The host gets no
result. -/
def Obligations.TerminateRunsCleanup : Prop :=
  ∀ (s : State) (rest : List Input), s.process = .running → s.inputs = .terminate false :: rest →
    ∃ t, step s = .next t ∧
      (s.lifecycle = .ready →
        t = { s with lifecycle := .released, dataLvl := .x, clkLvl := .x, chR := 0, chG := 0, chB := 0, ctrl := 0xFF,
                     sr := 0, bitcnt := 0, seq := .idle,
                     trace := s.trace ++ (frameEvents blackBytes ++ [.release s.dataPin s.clockPin]),
                     clock := t.clock, inputs := [], process := .exited, reply := .none } ∧
        s.clock + emissionTime ≤ t.clock) ∧
      (s.lifecycle ≠ .ready →
        t = { s with clock := t.clock, inputs := [], process := .exited, reply := .none } ∧ s.clock ≤ t.clock)

/-- 60_exceptions.md R129, R131 (decision D11 of the spec; cuts as log 16 has them; the undriven lines are decision D24, log
18, and the dropped inputs log 17): TERMINATE inside an operation that would have completed in READY. Some first part of its events has happened and none of the rest; then the handler's black
frame and the release, from whatever levels the lines have; the pins keep their values, nothing is saved, nothing returns.
-/
def Obligations.TerminateAbandonsTheOperation : Prop :=
  ∀ (s t : State) (rest : List Input) (c : Command) (i : Instr) (n : Nat),
    s.process = .running → s.inputs = .commandCut c n false :: rest → decode c = .ok i → i ≠ .cleanup →
    s.lifecycle = .ready → exec i { s with inputs := rest } = .next t →
    ∃ u done left, step s = .next u ∧ t.trace = s.trace ++ (done ++ left) ∧
      u.trace = s.trace ++ (done ++ frameEvents blackBytes ++ [.release s.dataPin s.clockPin]) ∧
      u.lifecycle = .released ∧ u.dataLvl = .x ∧ u.clkLvl = .x ∧ u.seq = .idle ∧ u.process = .exited ∧
      u.inputs = [] ∧ u.reply = .none ∧ u.dataPin = s.dataPin ∧ u.clockPin = s.clockPin ∧
      (u.brightness = s.brightness ∨ u.brightness = t.brightness)

/-- 60_exceptions.md R129 (decision D11 of the spec; cuts as log 16 has them): every cut between two events is admitted: for
each count of an operation's events there is a place where TERMINATE leaves exactly that many of them. -/
def Obligations.TerminateCanCutBetweenAnyTwoEvents : Prop :=
  ∀ (s t : State) (c : Command) (i : Instr) (rest : List Input) (es : List Event) (k : Nat),
    s.process = .running → s.lifecycle = .ready → decode c = .ok i → i ≠ .cleanup →
    exec i { s with inputs := rest } = .next t → t.trace = s.trace ++ es → k ≤ es.length →
    ∃ n u, step { s with inputs := .commandCut c n false :: rest } = .next u ∧
      u.trace = s.trace ++ (es.take k ++ frameEvents blackBytes ++ [.release s.dataPin s.clockPin])

/-- 60_exceptions.md R132 (decision D12 of the spec; the flag of an input that says so is log 16): TERMINATE while CLEANUP
is in flight is refused, whether the host called CLEANUP, a TERMINATE between operations or inside one entered it, or the hook
at the end of the host's program did. -/
def Obligations.TerminateDuringCleanupIsRefused : Prop :=
  ∀ (s : State) (rest : List Input) (c : Command) (n : Nat) (again : Bool), s.process = .running →
    (s.inputs = .commandCut c n again :: rest → decode c = .ok .cleanup → step s = .refused .terminateDuringCleanup) ∧
    (∀ (i : Instr) (t : State), s.inputs = .commandCut c n true :: rest → decode c = .ok i →
      exec i { s with inputs := rest } = .next t → step s = .refused .terminateDuringCleanup) ∧
    (s.inputs = .terminate true :: rest → step s = .refused .terminateDuringCleanup) ∧
    (s.inputs = .exit true :: rest → step s = .refused .terminateDuringCleanup)

/-- 60_exceptions.md R129, R132 (cuts as log 16 has them; the order of the forcing writes is decision D8 of the spec, log
18, the reset frame D6, log 14, that no teardown happens before READY D10): every cut of an INIT with two different pins is
admitted. One before LIFECYCLE is READY finds nothing to tear down, and a later one tears it down: in no case is the driver
left in READY. Where the pins are granted there is a cut after each count of INIT's events. -/
def Obligations.TerminateDuringInit : Prop :=
  ∀ (s : State) (rest : List Input) (c : Command) (p q : Int) (x : Scalar),
    s.process = .running → s.lifecycle = .unbuilt → decode c = .ok (.init p q x) → p ≠ q →
    let cut (n : Nat) : Host.Outcome State Fault Refusal := step { s with inputs := .commandCut c n false :: rest }
    (∀ n, ∃ u, cut n = .next u ∧ runFinished u ∧
      (u.lifecycle = .unbuilt → u.trace = s.trace ∨ u.trace = s.trace ++ [.acquire p q]) ∧
      (u.lifecycle = .failed → u.trace = s.trace) ∧
      (u.lifecycle = .released → ∃ es, es <+: .w .data false :: .w .clk false :: frameEvents blackBytes ∧
        u.trace = s.trace ++ (.acquire p q :: es ++ frameEvents blackBytes ++ [.release p q]))) ∧
    (pinsGranted p q s = true → ∀ k ≤ 484, ∃ n u, cut n = .next u ∧
      u.trace = s.trace ++ ((.acquire p q :: .w .data false :: .w .clk false :: frameEvents blackBytes).take k ++
        if u.lifecycle = .released then frameEvents blackBytes ++ [.release p q] else []) ∧
      (2 ≤ k → u.lifecycle = .released)) ∧
    (pinsGranted p q s = false → ∃ n u, cut n = .next u ∧ u.lifecycle = .failed)

/-- 60_exceptions.md R135, R132 (the process and its inputs are the model's, log 5 and 17; that the hook does nothing outside
READY is R90, decision D10 of the spec, log 18): at the end of the host's program the hook runs CLEANUP and the run is over;
after an exit no step does anything. -/
def Obligations.TheRunEndsOnce : Prop :=
  (∀ (s : State) (rest : List Input), s.process = .running → s.inputs = .exit false :: rest →
    ∃ t, step s = .next t ∧ runFinished t ∧
      t.trace = s.trace ++ if s.lifecycle = .ready then frameEvents blackBytes ++ [.release s.dataPin s.clockPin] else []) ∧
  (∀ s : State, s.process = .exited → step s = .next s)

/-- 00_scope.md R3, 20_memory.md R39 (the list of inputs is the model's, log 5 and 17): a step runs the operation of the
host's next command, whole, and takes that command off the list; a command that selects no operation is refused
(30_encoding.md R57, decision D1 of the spec; for bad operands, and that the lifecycle is not tested first, log 20), cut or not; a cut of an operation that is refused is
that refusal (log 16); with no input the block waits. -/
def Obligations.StepRunsTheDecodedOperation : Prop :=
  ∀ (s : State), s.process = .running →
    (∀ (c : Command) (rest : List Input) (i : Instr), s.inputs = .command c :: rest → decode c = .ok i →
      step s = exec i { s with inputs := rest }) ∧
    (∀ (c : Command) (rest : List Input) (e : DecodeError), s.inputs = .command c :: rest → decode c = .error e →
      step s = .refused (refusalOf e)) ∧
    (∀ (c : Command) (n : Nat) (again : Bool) (rest : List Input) (e : DecodeError),
      s.inputs = .commandCut c n again :: rest → decode c = .error e → step s = .refused (refusalOf e)) ∧
    (∀ (c : Command) (n : Nat) (again : Bool) (rest : List Input) (i : Instr) (r : Refusal),
      s.inputs = .commandCut c n again :: rest → decode c = .ok i → exec i { s with inputs := rest } = .refused r →
      step s = .refused r) ∧
    (s.inputs = [] → step s = .next s)

/-! ### Invariants -/

/-- The machine before any operation: LIFECYCLE and the two levels as 10_state.md R24 and R146 give them, no event yet (R21),
LED_COUNT and MODE as they are hardwired (R13, R15). R24 and R146 leave every other register unspecified there; that SEQ is
IDLE is the model's choice (log 2), and so is that reset is this state (log 1). -/
def Obligations.ResetIsUnbuilt : Prop :=
  State.reset.lifecycle = .unbuilt ∧ State.reset.dataLvl = .x ∧ State.reset.clkLvl = .x ∧ State.reset.trace = [] ∧
  State.reset.ledCount = 1 ∧ State.reset.mode = Config.modeValue ∧ State.reset.seq = .idle

/-- 10_state.md R25 and R11 to R17: the machine at reset satisfies the invariant of the state between operations (its
BRIGHTNESS and SEQ there are the model's choice, log 2). -/
def Obligations.ResetMeetsInvariant : Prop :=
  Inv State.reset

/-- 10_state.md R25 and R11 to R17: every step keeps the invariant: the hardwired registers, the legal brightness, SEQ at
IDLE, the lines where TRACE left them, low in READY and undriven otherwise (decision D24 of the spec), two different pins in
READY (R12, decision D17); that BRIGHTNESS is legal after INIT leans on D7 (R14, log 18) and after a failed one on log 8. -/
def Obligations.EveryStepKeepsInvariant : Prop :=
  ∀ (s t : State), Inv s → step s = .next t → Inv t

/-- 10_state.md R21, 20_memory.md R39: TRACE is only appended to. -/
def Obligations.TraceOnlyGrows : Prop :=
  ∀ (s t : State), step s = .next t → s.trace <+: t.trace

/-- 10_state.md R14: BRIGHTNESS is written by INIT and SET_BRIGHTNESS and by no other operation. -/
def Obligations.OnlyInitAndSetBrightnessWriteBrightness : Prop :=
  ∀ (i : Instr) (s t : State), exec i s = .next t → (∀ p q x, i ≠ .init p q x) → (∀ x, i ≠ .setBrightness x) →
    t.brightness = s.brightness

/-- 10_state.md R11, R12: the pins are written by INIT and by no other operation, and no step of a constructed driver changes
them. -/
def Obligations.PinsAreImmutableAfterInit : Prop :=
  (∀ (i : Instr) (s t : State), exec i s = .next t → (∀ p q x, i ≠ .init p q x) →
    t.dataPin = s.dataPin ∧ t.clockPin = s.clockPin) ∧
  (∀ (s t : State), step s = .next t → s.lifecycle ≠ .unbuilt → t.dataPin = s.dataPin ∧ t.clockPin = s.clockPin)

/-- 10_state.md R13, R15 for LED_COUNT and MODE; that VALID_PINS and PIN_SETUP_OK are fields nothing writes is the model's
choice (log 4), and the list of inputs and the process are the model's (log 5): no operation writes any of them. -/
def Obligations.OperationsLeaveHostAndPlatformAlone : Prop :=
  ∀ (i : Instr) (s t : State), exec i s = .next t →
    t.ledCount = s.ledCount ∧ t.mode = s.mode ∧ t.validPins = s.validPins ∧ t.pinSetupOk = s.pinSetupOk ∧
    t.inputs = s.inputs ∧ t.process = s.process

/-- 60_exceptions.md R136 (decision D27 of the spec; the field is the model's, log 7): the wall clock never runs back over a
step. -/
def Obligations.TheClockNeverRunsBack : Prop :=
  ∀ (s t : State), step s = .next t → s.clock ≤ t.clock

/-- 60_exceptions.md R120, R121 (decision D18 of the spec; that the outcome classifies a completed operation and is no state
is log 26, that a negative index is a bad one decision D14): the outcome names and numbers, row by row when each is the outcome, and how it reaches the host: a failed pin
set-up as E_INIT, a clamped operand as nothing, a malformed string as nothing, a bad index as `false`. -/
def Obligations.OutcomesReachTheHostAsTheTableSays : Prop :=
  [OutcomeCode.ok, .eInit, .oClamp, .oIgnore, .oIndex].map codeNumber = [0, 1, 2, 3, 4] ∧
  -- E_INIT, and O_CLAMP of INIT
  (∀ (p q : Int) (x : Scalar) (s : State), s.lifecycle = .unbuilt → p ≠ q →
    ∃ t, exec (.init p q x) s = .next t ∧
      (outcomeOf (.init p q x) s = .eInit ↔
        s.pinSetupOk = false ∨ pinIn p s.validPins = false ∨ pinIn q s.validPins = false) ∧
      (outcomeOf (.init p q x) s = .eInit → t.lifecycle = .failed ∧ t.reply = .raised .eInit ∧ t.trace = s.trace) ∧
      (outcomeOf (.init p q x) s ≠ .eInit →
        clampCode (outcomeOf (.init p q x) s) (x < 0 ∨ 1 < x) ∧ t.brightness = max 0 (min 1 x) ∧ t.reply = .done)) ∧
  -- O_CLAMP of a brightness
  (∀ (x : Scalar) (s : State), s.lifecycle = .ready →
    clampCode (outcomeOf (.setBrightness x) s) (x < 0 ∨ 1 < x) ∧
    exec (.setBrightness x) s = .next { s with brightness := max 0 (min 1 x), reply := .scalar (max 0 (min 1 x)) }) ∧
  -- O_CLAMP of a channel
  (∀ (r g b : Int) (s : State), s.lifecycle = .ready →
    clampCode (outcomeOf (.emitPixel r g b) s) (clampsChannel s.brightness ⟨r, g, b⟩) ∧
    ∃ t, exec (.emitPixel r g b) s = .next t ∧ t.reply = .done) ∧
  -- O_INDEX, and O_CLAMP of SET_COLOR
  (∀ (r g b index : Int) (s : State), s.lifecycle = .ready →
    (outcomeOf (.setColor r g b index) s = .oIndex ↔ index < 0 ∨ s.ledCount ≤ index) ∧
    (0 ≤ index → index < s.ledCount →
      clampCode (outcomeOf (.setColor r g b index) s) (clampsChannel s.brightness ⟨r, g, b⟩)) ∧
    ∃ t, exec (.setColor r g b index) s = .next t ∧
      (t.reply = .bool false ↔ outcomeOf (.setColor r g b index) s = .oIndex) ∧
      (outcomeOf (.setColor r g b index) s = .oIndex → t = { s with reply := t.reply })) ∧
  -- O_IGNORE, and O_CLAMP of SET_COLOR_HEX
  (∀ (str : List Char) (s : State), s.lifecycle = .ready →
    (outcomeOf (.setColorHex str) s = .oIgnore ↔ parseHex str = none) ∧
    (∀ c, parseHex str = some c → clampCode (outcomeOf (.setColorHex str) s) (clampsChannel s.brightness c)) ∧
    (∃ t, exec (.setColorHex str) s = .next t ∧ t.reply = .done) ∧
    (outcomeOf (.setColorHex str) s = .oIgnore → exec (.setColorHex str) s = .next { s with reply := .done })) ∧
  -- O_CLAMP of the effects whose colours are the host's; the host is told of no clamp
  (∀ (r g b cycles : Int) (d : Scalar) (s : State),
    clampCode (outcomeOf (.breathingEffect r g b cycles d) s)
      (∃ c ∈ breathColours ⟨r, g, b⟩ cycles, clampsChannel s.brightness c)) ∧
  (∀ (c1 c2 : Colour) (steps : Int) (d : Scalar) (s : State),
    clampCode (outcomeOf (.fadeBetweenColors c1 c2 steps d) s)
      (∃ c ∈ fadeColours c1 c2 steps, clampsChannel s.brightness c)) ∧
  (∀ (i : Instr) (s t : State), exec i s = .next t → outcomeOf i s = .oClamp →
    t.reply = .done ∨ t.reply = .bool true ∨ ∃ x, i = .setBrightness x ∧ t.reply = .scalar (max 0 (min 1 x))) ∧
  -- OK, at a legal brightness, of what emits no colour of the host's
  (∀ (i : Instr) (s : State), 0 ≤ s.brightness → s.brightness ≤ 1 →
    (i.hostIssued = false ∨ i = .clear ∨ i = .getStatus ∨ i = .cleanup ∨ (∃ d, i = .demoSequence d) ∨ (∃ n d, i = .rainbow n d) ∨
      ∃ d e, i = .policeLights d e) → outcomeOf i s = .ok)

/-! ### Formats and a hardwired register -/

/-- 30_encoding.md R46: the bit cell: the five events in the order of the phases, the hold of at least 5 microseconds, and the
line levels after each phase when the clock is low at the start. -/
def Obligations.ACellIsFiveEvents : Prop :=
  ∀ (b : Bool) (s : State), s.lifecycle = .ready →
    (∃ t, exec (.sendBit b) s = .next t ∧
      t.trace = s.trace ++ [.w .data b, .w .clk true, .d .hold, .w .clk false, .d .hold]) ∧
    5 / 1000000 ≤ pauseOf (.d .hold) ∧
    ∃ ms, planOf (.sendBit b) s = .ok ms ∧ ms.length = 5 ∧
      (s.clkLvl = .low →
        [1, 2, 3, 4, 5].map (fun n : Nat => wiresOf (run (ms.take n) s)) =
          [⟨levelOf b, .low⟩, ⟨levelOf b, .high⟩, ⟨levelOf b, .high⟩, ⟨levelOf b, .low⟩, ⟨levelOf b, .low⟩])

/-- 30_encoding.md R47, 20_memory.md R33: a byte is eight cells, most significant bit first, forty events, from every state
in READY. -/
def Obligations.AByteIsEightCellsHighBitFirst : Prop :=
  ∀ (v : Byte) (s : State), s.lifecycle = .ready →
    ∃ t es, exec (.sendByte v) s = .next t ∧ t.trace = s.trace ++ es ∧ es.length = 40 ∧
      ∀ k < 8, (es.drop (5 * k)).take 5 =
        [.w .data (v.getLsbD (7 - k)), .w .clk true, .d .hold, .w .clk false, .d .hold]

/-- 10_state.md R13: LED_COUNT is 1 from INIT on, nothing writes it, GET_STATUS reports it, and SET_COLOR tests its
index against it. -/
def Obligations.LedCountIsHardwiredToOne : Prop :=
  (∀ (p q : Int) (x : Scalar) (t : State), exec (.init p q x) State.reset = .next t → t.lifecycle = .ready →
    t.ledCount = 1) ∧
  (∀ (i : Instr) (s t : State), exec i s = .next t → t.ledCount = s.ledCount) ∧
  (∀ (s t : State), step s = .next t → s.ledCount = 1 → t.ledCount = 1) ∧
  (∀ s : State, s.lifecycle = .ready →
    ∃ t snap, exec .getStatus s = .next t ∧ t.reply = .status snap ∧ snap.ledCount = s.ledCount) ∧
  (∀ (r g b index : Int) (s : State), s.lifecycle = .ready →
    ∃ t, exec (.setColor r g b index) s = .next t ∧
      (0 ≤ index → index < s.ledCount → t.reply = .bool true) ∧
      (s.ledCount ≤ index → t.reply = .bool false ∧ t.trace = s.trace))
end

