-- ==== Sys2Proof/Laws/Decode.lean ====
section
/-! SUPPORT. What a reader of operands and the decoder have seen when they answer (30_encoding.md R54 to R57). -/

namespace Sys2Proof

/-- The parts of a computation that answers. -/
theorem except_bind_ok {α β ε : Type} {x : Except ε α} {f : α → Except ε β} {b : β} (h : (x >>= f) = .ok b) :
    ∃ a, x = .ok a ∧ f a = .ok b := by
  cases x with
  | error e => cases h
  | ok a => exact ⟨a, rfl, h⟩

theorem intOperand_required {vs : List Value} {k : Nat} {n : Int} (h : intOperand vs k none = .ok n) :
    vs[k]? = some (.int n) := by
  unfold intOperand at h
  split at h <;> simp_all

theorem scalarOperand_required {vs : List Value} {k : Nat} {q : Scalar} (h : scalarOperand vs k none = .ok q) :
    vs[k]? = some (.scalar q) := by
  unfold scalarOperand at h
  split at h <;> simp_all

theorem strOperand_required {vs : List Value} {k : Nat} {s : List Char} (h : strOperand vs k = .ok s) :
    vs[k]? = some (.str s) := by
  unfold strOperand at h
  split at h <;> simp_all

theorem colourOperand_required {vs : List Value} {k : Nat} {c : Colour} (h : colourOperand vs k = .ok c) :
    vs[k]? = some (.colour c) := by
  unfold colourOperand at h
  split at h <;> simp_all

/-- A command that decodes has an opcode of the table and no operand too many. -/
theorem decode_ok {c : Command} {i : Instr} (h : decode c = .ok i) :
    decodeOperation c.opcode c.operands = .ok i ∧ c.operands.length ≤ operandCount c.opcode := by
  obtain ⟨j, hj, h⟩ := except_bind_ok h
  split at h
  · cases h
  · injection h with h
    subst h
    exact ⟨hj, by omega⟩

end Sys2Proof
end

