-- ==== Sys2Proof/Laws/State.lean ====
section
/-! SUPPORT. One equation per event and per micro-action: what it does to the state, so that no later proof unfolds
`eventEffect`, `applyMicro` or `takeEInit`. A field of the right side reduces by itself. -/

namespace Sys2Proof.Machine

variable (s : State)

@[simp] theorem eventEffect_w_data (v : Bool) :
    eventEffect (.w .data v) s = { s with dataLvl := levelOf v, seq := seqNext s.seq } := rfl
@[simp] theorem eventEffect_w_clk (v : Bool) :
    eventEffect (.w .clk v) s = { s with clkLvl := levelOf v, seq := seqNext s.seq } := rfl
@[simp] theorem eventEffect_d (p : Pause) :
    eventEffect (.d p) s = { s with clock := s.clock + pauseOf (.d p), seq := seqNext s.seq } := rfl
@[simp] theorem eventEffect_wait (t : Scalar) : eventEffect (.wait t) s = { s with clock := s.clock + t } := rfl
@[simp] theorem eventEffect_acquire (p q : Int) : eventEffect (.acquire p q) s = s := rfl
@[simp] theorem eventEffect_release (p q : Int) :
    eventEffect (.release p q) s = { s with dataLvl := .x, clkLvl := .x } := rfl

@[simp] theorem applyMicro_event (e : Event) : applyMicro s (.event e) = eventEffect e s := rfl
@[simp] theorem applyMicro_startFrame : applyMicro s .startFrame = { s with seq := .cell 0 7 0 } := rfl
@[simp] theorem applyMicro_setChR (v : Byte) : applyMicro s (.setChR v) = { s with chR := v } := rfl
@[simp] theorem applyMicro_setChG (v : Byte) : applyMicro s (.setChG v) = { s with chG := v } := rfl
@[simp] theorem applyMicro_setChB (v : Byte) : applyMicro s (.setChB v) = { s with chB := v } := rfl
@[simp] theorem applyMicro_setCtrl (v : Byte) : applyMicro s (.setCtrl v) = { s with ctrl := v } := rfl
@[simp] theorem applyMicro_loadSr (v : Byte) : applyMicro s (.loadSr v) = { s with sr := v } := rfl
@[simp] theorem applyMicro_loadBitcnt : applyMicro s .loadBitcnt = { s with bitcnt := 8 } := rfl
@[simp] theorem applyMicro_shiftSr : applyMicro s .shiftSr = { s with sr := s.sr <<< 1 } := rfl
@[simp] theorem applyMicro_decBitcnt :
    applyMicro s .decBitcnt = { s with bitcnt := ⟨s.bitcnt.val - 1, by omega⟩ } := rfl
@[simp] theorem applyMicro_setDataPin (p : Int) : applyMicro s (.setDataPin p) = { s with dataPin := p } := rfl
@[simp] theorem applyMicro_setClockPin (p : Int) : applyMicro s (.setClockPin p) = { s with clockPin := p } := rfl
@[simp] theorem applyMicro_setBrightness (x : Scalar) :
    applyMicro s (.setBrightness x) = { s with brightness := x } := rfl
@[simp] theorem applyMicro_setLifecycle (l : Lifecycle) :
    applyMicro s (.setLifecycle l) = { s with lifecycle := l } := rfl
@[simp] theorem applyMicro_readClock :
    applyMicro s .readClock = { s with clock := s.clock + Config.lag s.draws, draws := s.draws + 1 } := rfl
@[simp] theorem applyMicro_raiseEInit : applyMicro s .raiseEInit = takeEInit s := rfl
@[simp] theorem applyMicro_reply (r : Reply) : applyMicro s (.reply r) = { s with reply := r } := rfl

@[simp] theorem takeEInit_lifecycle : (takeEInit s).lifecycle = .failed := rfl
@[simp] theorem takeEInit_reply : (takeEInit s).reply = .raised .eInit := rfl
@[simp] theorem takeEInit_brightness :
    (takeEInit s).brightness = clampBrightness (Config.freeScalar s.draws) := rfl
@[simp] theorem takeEInit_ledCount : (takeEInit s).ledCount = s.ledCount := rfl
@[simp] theorem takeEInit_mode : (takeEInit s).mode = s.mode := rfl
@[simp] theorem takeEInit_dataLvl : (takeEInit s).dataLvl = s.dataLvl := rfl
@[simp] theorem takeEInit_clkLvl : (takeEInit s).clkLvl = s.clkLvl := rfl
@[simp] theorem takeEInit_seq : (takeEInit s).seq = s.seq := rfl
@[simp] theorem takeEInit_trace : (takeEInit s).trace = s.trace := rfl
@[simp] theorem takeEInit_inputs : (takeEInit s).inputs = s.inputs := rfl
@[simp] theorem takeEInit_process : (takeEInit s).process = s.process := rfl
@[simp] theorem takeEInit_clock : (takeEInit s).clock = s.clock := rfl
@[simp] theorem takeEInit_validPins : (takeEInit s).validPins = s.validPins := rfl
@[simp] theorem takeEInit_pinSetupOk : (takeEInit s).pinSetupOk = s.pinSetupOk := rfl

@[simp] theorem levelOf_true : levelOf true = .high := rfl
@[simp] theorem levelOf_false : levelOf false = .low := rfl

@[simp] theorem seqNext_idle : seqNext .idle = .idle := rfl
@[simp] theorem seqNext_latch : seqNext .latch = .idle := rfl

end Sys2Proof.Machine
end

