-- ==== Sys2Proof/Laws/Ops.lean ====
section
/-! SUPPORT. Running a list of micro-actions: `run` splits at `++` and `::`, so a script is understood piece by piece; and
what scripts of wire micro-actions leave alone. -/

namespace Sys2Proof.Machine

theorem applyMicro_trace (m : Micro) (s : State) : (applyMicro s m).trace = s.trace := by
  cases m with
  | event e =>
    cases e with
    | w line v => cases line <;> rfl
    | _ => rfl
  | _ => rfl

/-- No micro-action reads TRACE. -/
theorem applyMicro_with_trace (m : Micro) (s : State) (tr : List Event) :
    applyMicro { s with trace := tr } m = { applyMicro s m with trace := tr } := by
  cases m with
  | event e =>
    cases e with
    | w line v => cases line <;> rfl
    | _ => rfl
  | _ => rfl

theorem foldl_applyMicro_with_trace (ms : List Micro) (s : State) (tr : List Event) :
    ms.foldl applyMicro { s with trace := tr } = { ms.foldl applyMicro s with trace := tr } := by
  induction ms generalizing s with
  | nil => rfl
  | cons m ms ih => rw [List.foldl_cons, applyMicro_with_trace, ih, List.foldl_cons]

theorem foldl_applyMicro_trace (ms : List Micro) (s : State) : (ms.foldl applyMicro s).trace = s.trace := by
  induction ms generalizing s with
  | nil => rfl
  | cons m ms ih => rw [List.foldl_cons, ih, applyMicro_trace]

@[simp] theorem eventsOf_nil : eventsOf [] = [] := rfl

@[simp] theorem eventsOf_append (a b : List Micro) : eventsOf (a ++ b) = eventsOf a ++ eventsOf b := by
  simp [eventsOf]

@[simp] theorem eventsOf_event (e : Event) (ms : List Micro) : eventsOf (.event e :: ms) = e :: eventsOf ms := rfl

@[simp] theorem eventsOf_register (m : Micro) (h : microEvent m = none) (ms : List Micro) :
    eventsOf (m :: ms) = eventsOf ms := by
  simp [eventsOf, h]

@[simp] theorem run_nil (s : State) : run [] s = s := by
  simp [run]

theorem run_append (a b : List Micro) (s : State) : run (a ++ b) s = run b (run a s) := by
  simp only [run, List.foldl_append, eventsOf_append, foldl_applyMicro_with_trace, List.append_assoc]

theorem run_cons (m : Micro) (ms : List Micro) (s : State) : run (m :: ms) s = run ms (run [m] s) :=
  run_append [m] ms s

@[simp] theorem run_event (e : Event) (s : State) :
    run [.event e] s = { eventEffect e s with trace := s.trace ++ [e] } := rfl

/-- A micro-action that is no event is its register write. -/
theorem run_register (m : Micro) (h : microEvent m = none) (s : State) : run [m] s = applyMicro s m := by
  have : eventsOf [m] = [] := by simp [eventsOf, h]
  simp only [run, this, List.append_nil, List.foldl_cons, List.foldl_nil]
  rw [← applyMicro_trace m s]

@[simp] theorem run_startFrame (s : State) : run [.startFrame] s = { s with seq := .cell 0 7 0 } :=
  run_register _ rfl s
@[simp] theorem run_reply (r : Reply) (s : State) : run [.reply r] s = { s with reply := r } := run_register _ rfl s
@[simp] theorem run_readClock (s : State) :
    run [.readClock] s = { s with clock := s.clock + Config.lag s.draws, draws := s.draws + 1 } := run_register _ rfl s
@[simp] theorem run_raiseEInit (s : State) : run [.raiseEInit] s = takeEInit s := run_register _ rfl s
@[simp] theorem run_setLifecycle (l : Lifecycle) (s : State) :
    run [.setLifecycle l] s = { s with lifecycle := l } := run_register _ rfl s
@[simp] theorem run_setBrightness (x : Scalar) (s : State) :
    run [.setBrightness x] s = { s with brightness := x } := run_register _ rfl s

@[simp] theorem run_trace (ms : List Micro) (s : State) : (run ms s).trace = s.trace ++ eventsOf ms := rfl

@[simp] theorem perform_ok (ms : List Micro) (s : State) : perform (.ok ms) s = .next (run ms s) := rfl
@[simp] theorem perform_error (r : Refusal) (s : State) : perform (.error r) s = .refused r := rfl

/-- The events of a first part of a list are a first part of its events. -/
theorem eventsOf_take_prefix (ms : List Micro) (n : Nat) : eventsOf (ms.take n) <+: eventsOf ms :=
  ⟨eventsOf (ms.drop n), by rw [← eventsOf_append, List.take_append_drop]⟩

/-- Every count of a list's events is the count of some first part of it. -/
theorem exists_take_eventsOf (ms : List Micro) (k : Nat) (h : k ≤ (eventsOf ms).length) :
    ∃ n, eventsOf (ms.take n) = (eventsOf ms).take k := by
  induction ms generalizing k with
  | nil => exact ⟨0, by simp⟩
  | cons m ms ih =>
    cases hm : microEvent m with
    | none =>
      rw [eventsOf_register m hm] at h ⊢
      obtain ⟨n, hn⟩ := ih k h
      exact ⟨n + 1, by rw [List.take_succ_cons, eventsOf_register m hm, hn]⟩
    | some e =>
      have he (l : List Micro) : eventsOf (m :: l) = e :: eventsOf l := by simp [eventsOf, hm]
      cases k with
      | zero => exact ⟨0, by simp⟩
      | succ k =>
        rw [he] at h ⊢
        obtain ⟨n, hn⟩ := ih k (by simpa using h)
        exact ⟨n + 1, by rw [List.take_succ_cons, he, hn, List.take_succ_cons]⟩

/-- The reply an operation ends with. -/
theorem run_reply_last (ms : List Micro) (r : Reply) (s : State) :
    run (ms ++ [.reply r]) s = { run ms s with reply := r } := by
  rw [run_append, run_reply]

/-- Everything an uninterrupted operation can do. -/
theorem perform_cases (p : Plan) (s : State) :
    (∃ ms, p = .ok ms ∧ perform p s = .next (run ms s)) ∨ (∃ r, p = .error r ∧ perform p s = .refused r) := by
  cases p with
  | ok ms => exact .inl ⟨ms, rfl, rfl⟩
  | error r => exact .inr ⟨r, rfl, rfl⟩

theorem whenReady_ready {s : State} (h : s.lifecycle = .ready) (p : Plan) : whenReady s p = p := if_pos h

theorem whenReady_notReady {s : State} (h : s.lifecycle ≠ .ready) (p : Plan) : whenReady s p = .error .notReady :=
  if_neg h

theorem whenReady_ok {s : State} {p : Plan} {ms : List Micro} (h : whenReady s p = .ok ms) :
    s.lifecycle = .ready ∧ p = .ok ms := by
  unfold whenReady at h
  split at h
  · exact ⟨‹_›, h⟩
  · cases h

/-- The micro-actions of emissions and waits: they write no control register, and neither host nor platform. -/
def isWire : Micro → Bool
  | .event (.w _ _) | .event (.d _) | .event (.wait _) => true
  | .startFrame | .setChR _ | .setChG _ | .setChB _ | .setCtrl _ | .loadSr _ | .loadBitcnt | .shiftSr | .decBitcnt => true
  | _ => false

/-- What a list of wire micro-actions leaves as it was. -/
def sameOffWire (s t : State) : Prop :=
  t.dataPin = s.dataPin ∧ t.clockPin = s.clockPin ∧ t.ledCount = s.ledCount ∧ t.brightness = s.brightness ∧
  t.mode = s.mode ∧ t.lifecycle = s.lifecycle ∧ t.validPins = s.validPins ∧ t.pinSetupOk = s.pinSetupOk ∧
  t.inputs = s.inputs ∧ t.process = s.process ∧ t.reply = s.reply ∧ t.draws = s.draws

theorem applyMicro_sameOffWire (m : Micro) (h : isWire m = true) (s : State) : sameOffWire s (applyMicro s m) := by
  cases m with
  | event e =>
    cases e with
    | w line v => cases line <;> simp [sameOffWire]
    | acquire p q => simp [isWire] at h
    | release p q => simp [isWire] at h
    | _ => simp [sameOffWire]
  | setDataPin | setClockPin | setBrightness | setLifecycle | readClock | raiseEInit | reply => simp [isWire] at h
  | _ => simp [sameOffWire]

theorem run_sameOffWire (ms : List Micro) (h : ms.all isWire = true) (s : State) : sameOffWire s (run ms s) := by
  suffices hf : ∀ s, sameOffWire s (ms.foldl applyMicro s) from hf s
  induction ms with
  | nil => intro s; simp [sameOffWire]
  | cons m ms ih =>
    intro s
    simp only [List.all_cons, Bool.and_eq_true] at h
    have h1 := applyMicro_sameOffWire m h.1 s
    have h2 := ih h.2 (applyMicro s m)
    simp only [sameOffWire, List.foldl_cons] at *
    simp_all

end Sys2Proof.Machine
end

