-- ==== Sys2Proof/Laws/Encoder.lean ====
section
/-! SUPPORT. What each script of the leaf layer does, whole, from any state (40_encoder_ops.md R65 to R72). -/

namespace Sys2Proof.Machine

theorem seqAdvance_add (m n : Nat) (p : SeqPos) : seqAdvance (m + n) p = seqAdvance n (seqAdvance m p) := by
  induction m generalizing p with
  | zero => simp [seqAdvance]
  | succ m ih => rw [Nat.succ_add]; exact ih _

@[simp] theorem eventsOf_sendBitScript (b : Bool) : eventsOf (sendBitScript b) = cellEvents b := rfl

/-- SEND_BIT (R65): the five events of its cell, the data line at the bit, the clock low. -/
theorem run_sendBitScript (b : Bool) (s : State) :
    run (sendBitScript b) s =
      { s with dataLvl := levelOf b, clkLvl := .low, seq := seqAdvance 5 s.seq, trace := s.trace ++ cellEvents b,
               clock := s.clock + 2 * Config.tHold } := by
  have : s.clock + Config.tHold + Config.tHold = s.clock + 2 * Config.tHold := by ring
  simp only [run, sendBitScript, List.foldl_cons, List.foldl_nil, applyMicro_event, eventEffect_w_data,
    eventEffect_w_clk, eventEffect_d, pauseOf, this, levelOf_true, levelOf_false, seqAdvance]
  rfl

/-- The events of `n` cells of a byte, SR's top bit first. -/
def loopEvents : Nat → Byte → List Event
  | 0, _ => []
  | n + 1, v => cellEvents v.msb ++ loopEvents n (v <<< 1)

theorem loopEvents_eight (v : Byte) : loopEvents 8 v = byteEvents v := by
  simp [loopEvents, byteEvents, wireOrder, BitVec.msb, BitVec.getMsbD]

theorem eventsOf_sendByteLoop (n : Nat) (v : Byte) : eventsOf (sendByteLoop n v) = loopEvents n v := by
  induction n generalizing v with
  | zero => rfl
  | succ n ih =>
    rw [sendByteLoop, eventsOf_append, eventsOf_append, ih, eventsOf_sendBitScript, loopEvents, List.append_assoc]
    rfl

@[simp] theorem eventsOf_sendByteScript (v : Byte) : eventsOf (sendByteScript v) = byteEvents v := by
  rw [← loopEvents_eight, ← eventsOf_sendByteLoop]; rfl

/-- One cell of SEND_BYTE with the shift and the count after it (R66). -/
theorem run_cell_shift (b : Bool) (s : State) :
    run (sendBitScript b ++ [.shiftSr, .decBitcnt]) s =
      { s with dataLvl := levelOf b, clkLvl := .low, seq := seqAdvance 5 s.seq, trace := s.trace ++ cellEvents b,
               clock := s.clock + 2 * Config.tHold, sr := s.sr <<< 1, bitcnt := ⟨s.bitcnt.val - 1, by omega⟩ } := by
  rw [run_append, run_sendBitScript, run_cons, run_register _ rfl, run_register _ rfl]
  rfl

/-- SR after `n` more shifts. -/
def shifted : Nat → Byte → Byte
  | 0, v => v
  | n + 1, v => shifted n (v <<< 1)

/-- The last bit that the loop sends, from `n` bits on; `d` if it sends none. -/
def lastLevel : Nat → Byte → Level → Level
  | 0, _, d => d
  | n + 1, v, _ => lastLevel n (v <<< 1) (levelOf v.msb)

theorem run_sendByteLoop (n : Nat) (v : Byte) (s : State) (hv : s.sr = v) (hb : s.bitcnt.val = n)
    (hc : s.clkLvl = .low) :
    run (sendByteLoop n v) s =
      { s with dataLvl := lastLevel n v s.dataLvl, seq := seqAdvance (5 * n) s.seq, sr := shifted n v,
               bitcnt := 0, trace := s.trace ++ loopEvents n v, clock := s.clock + 2 * n * Config.tHold } := by
  induction n generalizing v s with
  | zero =>
    have : s.bitcnt = 0 := Fin.ext hb
    cases s; simp_all [sendByteLoop, lastLevel, seqAdvance, shifted, loopEvents]
  | succ n ih =>
    rw [sendByteLoop, run_append, run_cell_shift]
    have ht : s.clock + 2 * Config.tHold + 2 * (n : Scalar) * Config.tHold
        = s.clock + 2 * ((n + 1 : Nat) : Scalar) * Config.tHold := by push_cast; ring
    rw [ih (v <<< 1) _ (by simp [hv]) (by simp [hb]) rfl]
    simp only [lastLevel, shifted, loopEvents, List.append_assoc, ← seqAdvance_add, ht, hc,
      show 5 * (n + 1) = 5 + 5 * n by omega]

theorem lastLevel_eight (v : Byte) (d : Level) : lastLevel 8 v d = levelOf (v.getLsbD 0) := by
  simp [lastLevel, BitVec.msb, BitVec.getMsbD]

theorem shifted_eight (v : Byte) : shifted 8 v = 0 := by
  ext i hi
  simp [shifted]

/-- SEND_BYTE (R66), whatever the level of the clock on entry: the events of the byte; the data line at its last bit, the
clock low, SR and BITCNT at 0. -/
theorem run_sendByteScript (v : Byte) (s : State) :
    run (sendByteScript v) s =
      { s with dataLvl := levelOf (v.getLsbD 0), clkLvl := .low, seq := seqAdvance 40 s.seq, sr := 0, bitcnt := 0,
               trace := s.trace ++ byteEvents v, clock := s.clock + 16 * Config.tHold } := by
  have ht : s.clock + 2 * Config.tHold + 2 * (7 : Nat) * Config.tHold = s.clock + 16 * Config.tHold := by
    push_cast; ring
  have hz : shifted 7 (v <<< 1) = 0 := shifted_eight v
  have hl : lastLevel 7 (v <<< 1) (levelOf v.msb) = levelOf (v.getLsbD 0) := lastLevel_eight v s.dataLvl
  rw [sendByteScript, run_append, run_cons, run_register _ rfl, run_register _ rfl, ← loopEvents_eight, sendByteLoop,
    run_append, run_cell_shift]
  rw [run_sendByteLoop 7 (v <<< 1) _ rfl rfl rfl]
  simp only [applyMicro_loadSr, applyMicro_loadBitcnt, hz, hl, loopEvents, List.append_assoc, ← seqAdvance_add, ht]

/-- LATCH (R67): one pause. -/
theorem run_latchScript (s : State) :
    run latchScript s =
      { s with seq := seqNext s.seq, trace := s.trace ++ [.d .latch], clock := s.clock + Config.tLatch } := rfl

/-- The bytes of a frame one after another (R72). -/
theorem run_sendBytes (vs : List Byte) (v : Byte) (s : State) :
    run ((vs ++ [v]).flatMap sendByteScript) s =
      { s with dataLvl := levelOf (v.getLsbD 0), clkLvl := .low, seq := seqAdvance (40 * (vs.length + 1)) s.seq,
               sr := 0, bitcnt := 0, trace := s.trace ++ (vs ++ [v]).flatMap byteEvents,
               clock := s.clock + 16 * (vs.length + 1) * Config.tHold } := by
  induction vs generalizing s with
  | nil => simp [run_sendByteScript]
  | cons w ws ih =>
    have ht : s.clock + 16 * Config.tHold + 16 * ((ws.length : Scalar) + 1) * Config.tHold
        = s.clock + 16 * (((ws.length + 1 : Nat) : Scalar) + 1) * Config.tHold := by push_cast; ring
    rw [List.cons_append, List.flatMap_cons, run_append, run_sendByteScript]
    refine (ih _).trans ?_
    simp only [List.flatMap_cons, List.append_assoc, ← seqAdvance_add, ht, List.length_cons,
      show 40 * (ws.length + 1 + 1) = 40 + 40 * (ws.length + 1) by omega]

/-- Twelve bytes take SEQ from the first event of a frame to its latch (R19). -/
theorem seqAdvance_frame : seqAdvance 480 (.cell 0 7 0) = .latch := by decide +kernel

@[simp] theorem eventsOf_frameScript (bytes : List Byte) : eventsOf (frameScript bytes) = frameEvents bytes := by
  have : eventsOf (bytes.flatMap sendByteScript) = bytes.flatMap byteEvents := by
    induction bytes with
    | nil => rfl
    | cons v vs ih => rw [List.flatMap_cons, eventsOf_append, ih, eventsOf_sendByteScript, List.flatMap_cons]
  rw [frameScript, eventsOf_append, eventsOf_append, this]
  rfl

/-- FRAME of twelve bytes (R72). -/
theorem run_frameScript (vs : List Byte) (v : Byte) (h : vs.length = 11) (s : State) :
    run (frameScript (vs ++ [v])) s =
      { s with dataLvl := levelOf (v.getLsbD 0), clkLvl := .low, seq := .idle, sr := 0, bitcnt := 0,
               trace := s.trace ++ frameEvents (vs ++ [v]), clock := s.clock + emissionTime } := by
  have ht : s.clock + 16 * ((11 : Scalar) + 1) * Config.tHold + Config.tLatch = s.clock + emissionTime := by
    rw [emissionTime]; ring
  rw [frameScript, run_append, run_append, run_startFrame, run_sendBytes, run_latchScript]
  simp only [h, frameEvents, List.append_assoc, Nat.reduceAdd, Nat.reduceMul, seqAdvance_frame, seqNext_latch,
    Nat.cast_ofNat, ht]

@[simp] theorem eventsOf_emitPixelScript (q : Scalar) (r g b : Int) :
    eventsOf (emitPixelScript q r g b) = frameEvents (frameOf q ⟨r, g, b⟩) := by
  rw [emitPixelScript, eventsOf_append, eventsOf_frameScript]
  rfl

/-- EMIT_PIXEL (R70), whatever the levels of the lines on entry. -/
theorem run_emitPixelScript (q : Scalar) (r g b : Int) (s : State) :
    run (emitPixelScript q r g b) s = emitted q ⟨r, g, b⟩ s := by
  rw [emitPixelScript, run_append, run_cons, run_register _ rfl, run_cons, run_register _ rfl, run_cons,
    run_register _ rfl, run_register _ rfl]
  exact run_frameScript [0, 0, 0, 0, _, _, _, _, 0, 0, 0] 0 rfl _

theorem sendByteLoop_isWire (n : Nat) (v : Byte) : (sendByteLoop n v).all isWire = true := by
  induction n generalizing v with
  | zero => rfl
  | succ n ih => rw [sendByteLoop, List.all_append, ih]; rfl

theorem sendByteScript_isWire (v : Byte) : (sendByteScript v).all isWire = true := by
  rw [sendByteScript, List.all_append, sendByteLoop_isWire]
  rfl

theorem emitPixelScript_isWire (q : Scalar) (r g b : Int) : (emitPixelScript q r g b).all isWire = true := by
  have : ∀ bytes : List Byte, (bytes.flatMap sendByteScript).all isWire = true := by
    intro bytes
    induction bytes with
    | nil => rfl
    | cons v vs ih => rw [List.flatMap_cons, List.all_append, ih, sendByteScript_isWire]; rfl
  rw [emitPixelScript, frameScript, List.all_append, List.all_append, List.all_append, this]
  rfl

end Sys2Proof.Machine
end

