-- ==== Sys2Proof/Laws/Observe.lean ====
section
/-! SUPPORT. The line levels and RXBITS as functions of the events (10_state.md R17, R21). -/

namespace Sys2Proof.Machine

@[simp] theorem replay_nil (p : Wires) : replay p [] = p := rfl

@[simp] theorem replay_cons (p : Wires) (e : Event) (es : List Event) :
    replay p (e :: es) = replay (wiresAfter p e) es := rfl

theorem replay_append (p : Wires) (a b : List Event) : replay p (a ++ b) = replay (replay p a) b := by
  simp [replay]

@[simp] theorem rxFrom_nil (p : Wires) : rxFrom p [] = [] := rfl

theorem rxFrom_append (p : Wires) (a b : List Event) :
    rxFrom p (a ++ b) = rxFrom p a ++ rxFrom (replay p a) b := by
  induction a generalizing p with
  | nil => rfl
  | cons e es ih => simp [rxFrom, ih]

/-- Every micro-action keeps the lines where its event leaves them. -/
theorem wiresOf_applyMicro (m : Micro) (s : State) :
    wiresOf (applyMicro s m) = replay (wiresOf s) (eventsOf [m]) := by
  cases m with
  | event e =>
    cases e with
    | w line v => cases line <;> rfl
    | _ => rfl
  | _ => rfl

/-- The lines of a state follow the events (R17). -/
theorem wiresOf_run (ms : List Micro) (s : State) : wiresOf (run ms s) = replay (wiresOf s) (eventsOf ms) := by
  suffices h : wiresOf (ms.foldl applyMicro s) = replay (wiresOf s) (eventsOf ms) from h
  induction ms generalizing s with
  | nil => rfl
  | cons m ms ih =>
    rw [List.foldl_cons, ih, wiresOf_applyMicro, ← replay_append, ← eventsOf_append]; rfl

/-- A cell entered with the clock low lets the receiver sample its bit once; entered with the clock high, never (R65). -/
theorem rxFrom_cell (p : Wires) (b : Bool) :
    rxFrom p (cellEvents b) = if p.clk = .low then [levelOf b] else [] := by
  simp [cellEvents, rxFrom, sample, wiresAfter, levelOf]

@[simp] theorem replay_cell (p : Wires) (b : Bool) : replay p (cellEvents b) = ⟨levelOf b, .low⟩ := rfl

/-- A byte entered with the clock low gives the receiver its eight bits (R47). -/
theorem rxFrom_byte (p : Wires) (h : p.clk = .low) (v : Byte) :
    rxFrom p (byteEvents v) = wireOrder.map fun k => levelOf (v.getLsbD k) := by
  simp [byteEvents, wireOrder, rxFrom_append, rxFrom_cell, h]

theorem replay_byte (p : Wires) (v : Byte) : replay p (byteEvents v) = ⟨levelOf (v.getLsbD 0), .low⟩ := by
  simp [byteEvents, wireOrder, replay_append]

theorem rxFrom_bytes (p : Wires) (h : p.clk = .low) (bytes : List Byte) :
    rxFrom p (bytes.flatMap byteEvents) = (wireBits bytes).map levelOf := by
  induction bytes generalizing p with
  | nil => rfl
  | cons v vs ih =>
    rw [List.flatMap_cons, rxFrom_append, rxFrom_byte p h, ih _ (by rw [replay_byte])]
    simp [wireBits, wireOrder]

/-- A frame entered with the clock low gives the receiver its wire bits (R49). -/
theorem rxFrom_frame (p : Wires) (h : p.clk = .low) (bytes : List Byte) :
    rxFrom p (frameEvents bytes) = (wireBits bytes).map levelOf := by
  rw [frameEvents, rxFrom_append, rxFrom_bytes p h]
  simp [rxFrom, sample]

end Sys2Proof.Machine
end

