-- ==== Sys2Proof/Laws/Operands.lean ====
section
/-! SUPPORT. The operand functions at the values the driver uses (40_encoder_ops.md R68 to R71, 41_driver_ops.md R87). -/

namespace Sys2Proof.Machine

@[simp] theorem scaleFn_zero (q : Scalar) : scaleFn 0 q = 0 := by simp [scaleFn]

@[simp] theorem channelByte_zero (q : Scalar) : channelByte q 0 = 0 := by
  rw [channelByte, scaleFn_zero]; rfl

/-- The frame of (0,0,0) is the same twelve bytes at every brightness (R80, R87, R89). -/
@[simp] theorem frameOf_black (q : Scalar) : frameOf q black = blackBytes := by
  simp only [frameOf, ctrlOf, black, channelByte_zero]
  rfl

theorem ctrlOf_black (q : Scalar) : ctrlOf q black = 0xFF := by
  simp only [ctrlOf, black, channelByte_zero]
  rfl

theorem clampBrightness_legal (x : Scalar) : 0 ≤ clampBrightness x ∧ clampBrightness x ≤ 1 := by
  unfold clampBrightness clampScalar
  split
  · exact ⟨le_refl _, zero_le_one⟩
  · split
    · exact ⟨zero_le_one, le_refl _⟩
    · exact ⟨le_of_not_gt ‹_›, le_of_not_gt ‹_›⟩

/-- The clamped channel lies in a byte, so that the conversion loses nothing (R69). -/
theorem channelByte_toNat (q : Scalar) (c : Int) :
    ((channelByte q c).toNat : Int) = clampInt (scaleFn c q) 0 255 := by
  have h : 0 ≤ clampInt (scaleFn c q) 0 255 ∧ clampInt (scaleFn c q) 0 255 ≤ 255 := by
    unfold clampInt
    split
    · omega
    · split <;> omega
  rw [channelByte, BitVec.toNat_ofInt]
  omega

end Sys2Proof.Machine
end

