-- ==== Sys2Proof/Laws/Driver.lean ====
section
/-! SUPPORT. What the scripts of INIT and CLEANUP do, whole, and the teardown that TERMINATE runs (41_driver_ops.md R80, R89,
60_exceptions.md R131). -/

namespace Sys2Proof.Machine

/-- Everything the plan of INIT can be. -/
theorem planInit_ok {p q : Int} {x : Scalar} {s : State} {ms : List Micro} (h : planInit p q x s = .ok ms) :
    s.lifecycle = .unbuilt ∧ p ≠ q ∧
      ((pinsGranted p q s = true ∧ ms = initScript p q x) ∨ (pinsGranted p q s = false ∧ ms = [.raiseEInit])) := by
  unfold planInit at h
  split at h
  · cases h
  · split at h
    · cases h
    · split at h
      · cases h; exact ⟨by simp_all, ‹_›, .inl ⟨‹_›, rfl⟩⟩
      · cases h; exact ⟨by simp_all, ‹_›, .inr ⟨by simp_all, rfl⟩⟩

/-- INIT up to its frame (R80). -/
theorem run_init_registers (p q : Int) (y : Scalar) (s : State) :
    run [.event (.acquire p q), .setDataPin p, .setClockPin q, .setBrightness y, .setLifecycle .ready,
        .event (.w .data false), .event (.w .clk false)] s =
      { s with dataPin := p, clockPin := q, brightness := y, lifecycle := .ready, dataLvl := .low, clkLvl := .low,
               seq := seqNext (seqNext s.seq),
               trace := s.trace ++ [.acquire p q, .w .data false, .w .clk false] } := rfl

/-- INIT that gets its pins (R80): its registers, then one emission of the colour (0,0,0). -/
theorem run_initScript (p q : Int) (x : Scalar) (s : State) :
    run (initScript p q x) s =
      { emitted (clampBrightness x) black
          { s with dataPin := p, clockPin := q, brightness := clampBrightness x, lifecycle := .ready,
                   trace := s.trace ++ [.acquire p q, .w .data false, .w .clk false] } with reply := .done } := by
  rw [initScript, run_append, run_append, run_init_registers]
  simp only [resetFrame, resetFrameScript, run_emitPixelScript, run_reply]
  rfl

/-- The events of INIT (R80). -/
theorem eventsOf_initScript (p q : Int) (x : Scalar) :
    eventsOf (initScript p q x) = .acquire p q :: .w .data false :: .w .clk false :: frameEvents blackBytes := by
  have hf : frameOf (clampBrightness x) ⟨0, 0, 0⟩ = blackBytes := frameOf_black _
  rw [initScript, eventsOf_append, eventsOf_append, resetFrame, resetFrameScript, eventsOf_emitPixelScript, hf]
  exact List.append_nil _

/-- INIT is five micro-actions, the last of which is READY, and then the forcing writes and the frame. -/
theorem initScript_take (p q : Int) (x : Scalar) (n : Nat) :
    (initScript p q x).take (n + 5) =
      [Micro.event (.acquire p q), .setDataPin p, .setClockPin q, .setBrightness (clampBrightness x), .setLifecycle .ready] ++
        ([Micro.event (.w .data false), .event (.w .clk false)] ++ emitPixelScript (clampBrightness x) 0 0 0 ++
          [Micro.reply .done]).take n := rfl

/-- CLEANUP of a driver in READY (R89). -/
theorem run_cleanupScript (s : State) (h : s.lifecycle = .ready) :
    run (cleanupScript s) s =
      { s with lifecycle := .released, dataLvl := .x, clkLvl := .x, chR := 0, chG := 0, chB := 0, ctrl := 0xFF,
               sr := 0, bitcnt := 0, seq := .idle,
               trace := s.trace ++ (frameEvents blackBytes ++ [.release s.dataPin s.clockPin]),
               clock := s.clock + emissionTime } := by
  have hc : ctrlOf s.brightness ⟨0, 0, 0⟩ = 0xFF := ctrlOf_black s.brightness
  have hf : frameOf s.brightness ⟨0, 0, 0⟩ = blackBytes := frameOf_black s.brightness
  rw [cleanupScript, if_pos h, run_append, run_emitPixelScript, run_cons, run_event, run_setLifecycle]
  simp only [emitted, channelByte_zero, hc, hf, eventEffect_release, List.append_assoc]

/-- CLEANUP of any other driver (R90). -/
theorem run_cleanupScript_not_ready (s : State) (h : s.lifecycle ≠ .ready) : run (cleanupScript s) s = s := by
  rw [cleanupScript, if_neg h, run_nil]

/-- The teardown hook on a driver in READY (R131). -/
theorem teardown_ready (s : State) (h : s.lifecycle = .ready) :
    teardown s =
      { s with lifecycle := .released, dataLvl := .x, clkLvl := .x, chR := 0, chG := 0, chB := 0, ctrl := 0xFF,
               sr := 0, bitcnt := 0, seq := .idle,
               trace := s.trace ++ (frameEvents blackBytes ++ [.release s.dataPin s.clockPin]),
               clock := s.clock + emissionTime, process := .exited, inputs := [], reply := .none } := by
  rw [teardown, run_cleanupScript s h, leave]

/-- The teardown hook on any other driver (R131). -/
theorem teardown_not_ready (s : State) (h : s.lifecycle ≠ .ready) :
    teardown s = { s with process := .exited, inputs := [], reply := .none } := by
  rw [teardown, run_cleanupScript_not_ready s h, leave]

end Sys2Proof.Machine
end

