-- ==== Sys2Proof/Laws/Effects.lean ====
section
/-! SUPPORT. What the loops of the effects do (42_effects.md R100 to R108). -/

namespace Sys2Proof.Machine

theorem tLatch_nonneg : (0 : Scalar) ≤ Config.tLatch := Config.tLatch.2

theorem lag_nonneg (n : Nat) : (0 : Scalar) ≤ Config.lag n := (Config.lag n).2

theorem emissionTime_nonneg : 0 ≤ emissionTime := by
  have := tLatch_nonneg
  unfold emissionTime Config.tHold
  linarith

theorem sameControl_refl (s : State) : sameControl s s := by simp [sameControl]

theorem sameControl_trans {s t u : State} (h : sameControl s t) (h' : sameControl t u) : sameControl s u := by
  simp_all [sameControl]

theorem wireAfter_some_of_same {q : Scalar} {c : Colour} {s t u : State} (h : sameWire t u)
    (h' : wireAfter q (some c) s t) : wireAfter q (some c) s u := by
  simp_all [wireAfter, sameWire]

@[simp] theorem eventsOf_emitAndWait (q d : Scalar) (c : Colour) :
    eventsOf (emitAndWait q d c) = frameEvents (frameOf q c) ++ [.wait d] := by
  rw [emitAndWait, eventsOf_append, eventsOf_emitPixelScript]; rfl

/-- One emission of an effect and its wait. -/
theorem run_emitAndWait (q d : Scalar) (c : Colour) (s : State) :
    run (emitAndWait q d c) s =
      { emitted q c s with trace := s.trace ++ (frameEvents (frameOf q c) ++ [.wait d]),
                           clock := s.clock + (emissionTime + d) } := by
  rw [emitAndWait, run_append, run_emitPixelScript, run_event, eventEffect_wait]
  simp only [emitted, List.append_assoc, add_assoc]

/-- The loop of an effect over its colours: what it leaves, and `reply` as it was. -/
theorem run_emissions (q d : Scalar) (cs : List Colour) (s : State) :
    emissionsDone q d cs s (run (cs.flatMap (emitAndWait q d)) s) ∧
      (run (cs.flatMap (emitAndWait q d)) s).reply = s.reply := by
  induction cs generalizing s with
  | nil => simp [emissionsDone, sameControl, emissionsThenWaits, wireAfter, sameWire]
  | cons c cs ih =>
    rw [List.flatMap_cons, run_append, run_emitAndWait]
    obtain ⟨⟨hc, hd, ht, hk, hw⟩, hr⟩ := ih
      { emitted q c s with trace := s.trace ++ (frameEvents (frameOf q c) ++ [.wait d]),
                           clock := s.clock + (emissionTime + d) }
    refine ⟨⟨hc, hd, ?_, ?_, ?_⟩, hr⟩
    · rw [ht]; simp [emissionsThenWaits]
    · refine le_trans (le_of_eq ?_) hk
      rw [List.length_cons]; push_cast; ring
    · cases hl : cs.getLast? with
      | none =>
        have : cs = [] := List.getLast?_eq_none_iff.mp hl
        subst this
        simp [wireAfter, emitted]
      | some c' =>
        rw [hl] at hw
        have hne : cs ≠ [] := by rintro rfl; simp at hl
        have : (c :: cs).getLast? = some c' := by
          rw [List.getLast?_cons, hl]; rfl
        rw [this]
        exact hw

/-- An effect's loop and a clear after it (R103). -/
theorem run_emissions_clear (q d : Scalar) (cs : List Colour) (s : State) :
    let t := run (cs.flatMap (emitAndWait q d) ++ clearScript q) s
    sameControl s t ∧ t.draws = s.draws ∧ t.reply = s.reply ∧
      t.trace = s.trace ++ (emissionsThenWaits q d cs ++ frameEvents blackBytes) ∧
      s.clock + ((cs.length + 1) * emissionTime + cs.length * d) ≤ t.clock ∧ wireAfter q (some black) s t := by
  obtain ⟨⟨h1, h2, h3, h4, -⟩, h5⟩ := run_emissions q d cs s
  have hb : frameOf q ⟨0, 0, 0⟩ = blackBytes := frameOf_black q
  rw [run_append, clearScript, run_emitPixelScript]
  generalize run (cs.flatMap (emitAndWait q d)) s = t at *
  refine ⟨h1, h2, h5, ?_, ?_, ?_⟩
  · simp only [emitted, h3, hb, List.append_assoc]
  · simp only [emitted]; linarith
  · simp [wireAfter, emitted, black]

/-- At the LED count of the block, an emission through SET_COLOR at index 0 is an emission (C3). -/
theorem setColorScript_zero (q : Scalar) (r g b : Int) : setColorScript 1 q r g b 0 = emitPixelScript q r g b := rfl

theorem rainbowScript_one (q : Scalar) (cycles : Int) (speed : Scalar) :
    rainbowScript 1 q cycles speed = (rainbowColours cycles).flatMap (emitAndWait q speed) := rfl

@[simp] theorem eventsOf_policePair (q speed : Scalar) : eventsOf (policePair q speed) = pairEvents q speed := by
  simp only [policePair, eventsOf_append, eventsOf_emitAndWait, pairEvents, tBlank, black, List.append_assoc]

/-- One pair of POLICE_LIGHTS (R107). -/
theorem run_policePair (q speed : Scalar) (s : State) :
    run (policePair q speed) s =
      { emitted q black s with trace := s.trace ++ pairEvents q speed, clock := s.clock + pairTime speed } := by
  have ht : s.clock + (emissionTime + speed) + (emissionTime + 1 / 20) + (emissionTime + speed)
      + (emissionTime + 1 / 20) = s.clock + pairTime speed := by unfold pairTime; ring
  rw [policePair, run_append, run_append, run_append, run_emitAndWait, run_emitAndWait, run_emitAndWait,
    run_emitAndWait]
  simp only [emitted, tBlank, ht, black, pairEvents, List.append_assoc]

theorem checkElapsed_shift (speed : Scalar) (n k : Nat) :
    checkElapsed speed n (k + 1) = Config.lag n + pairTime speed + checkElapsed speed (n + 1) k := by
  induction k with
  | zero => simp [checkElapsed]
  | succ k ih =>
    rw [checkElapsed, ih, checkElapsed]
    have : n + (k + 1 + 1) = n + 1 + (k + 1) := by omega
    rw [this]; ring

/-- What the loop of POLICE_LIGHTS does when its bound is large enough (R107): it does the least number of pairs after which
a reading of the clock is `duration` or more past `start`. -/
theorem policeLoop_reads_past_duration (duration speed start : Scalar) (n : Nat) (s : State)
    (hn : start + duration ≤ s.clock + n * (2 * speed + 1 / 10)) :
    ∃ m, let t := run (policeLoop duration speed start n s) s
      (∀ k < m, s.clock + checkElapsed speed s.draws k - start < duration) ∧
      duration ≤ s.clock + checkElapsed speed s.draws m - start ∧
      t.clock = s.clock + checkElapsed speed s.draws m ∧ t.draws = s.draws + (m + 1) ∧
      t.trace = s.trace ++ (List.replicate m (pairEvents s.brightness speed)).flatten ∧
      sameControl s t ∧ t.reply = s.reply ∧ wireAfter s.brightness (if m = 0 then none else some black) s t := by
  have he := emissionTime_nonneg
  induction n generalizing s with
  | zero =>
    have := lag_nonneg s.draws
    refine ⟨0, by simp, ?_, ?_, ?_, ?_, ?_, ?_, ?_⟩ <;>
      simp [policeLoop, checkElapsed, sameControl, wireAfter, sameWire]
    simp at hn
    linarith
  | succ n ih =>
    have hl := lag_nonneg s.draws
    rw [policeLoop]
    split
    · rename_i hlt
      rw [run_readClock] at hlt
      have hp : pairTime speed = 4 * emissionTime + (2 * speed + 1 / 10) := by unfold pairTime; ring
      have hfuel : start + duration ≤ (s.clock + Config.lag s.draws + pairTime speed) + n * (2 * speed + 1 / 10) := by
        push_cast at hn
        rw [hp]; linarith
      rw [run_cons, run_readClock, run_append, run_policePair, run_cons .readClock (policePair _ _), run_readClock,
        run_policePair]
      obtain ⟨m, h1, h2, h3, h4, h5, h6, h7, h8⟩ := ih
        { emitted s.brightness black { s with clock := s.clock + Config.lag s.draws, draws := s.draws + 1 } with
          trace := s.trace ++ pairEvents s.brightness speed,
          clock := s.clock + Config.lag s.draws + pairTime speed } hfuel
      have hk : ∀ k, s.clock + Config.lag s.draws + pairTime speed + checkElapsed speed (s.draws + 1) k
          = s.clock + checkElapsed speed s.draws (k + 1) := by
        intro k; rw [checkElapsed_shift]; ring
      refine ⟨m + 1, ?_, ?_, ?_, ?_, ?_, ?_, h7, ?_⟩
      · intro k hkm
        cases k with
        | zero => simpa [checkElapsed] using hlt
        | succ k => rw [← hk]; exact h1 k (by omega)
      · rw [← hk]; exact h2
      · rw [← hk]; exact h3
      · rw [h4]; simp only [emitted]; omega
      · rw [h5, List.replicate_succ, List.flatten_cons, List.append_assoc]; rfl
      · exact h6
      · simp only [Nat.add_eq_zero_iff, one_ne_zero, and_false, if_false]
        cases m with
        | zero =>
          exact wireAfter_some_of_same h8 (by simp [wireAfter, emitted])
        | succ m => exact h8
    · rename_i hge
      rw [run_readClock] at hge
      refine ⟨0, by simp, ?_, ?_, ?_, ?_, ?_, ?_, ?_⟩ <;>
        simp [checkElapsed, sameControl, wireAfter, sameWire]
      simpa using hge

/-- The bound of POLICE_LIGHTS is large enough. -/
theorem policeBound_enough (duration speed : Scalar) (hs : 0 ≤ speed) :
    duration ≤ (policeBound duration speed : Scalar) * (2 * speed + 1 / 10) := by
  have hp : (0 : Scalar) < 2 * speed + 1 / 10 := by linarith
  have h1 : duration / (2 * speed + 1 / 10) ≤ (⌈duration / (2 * speed + 1 / 10)⌉.toNat : Scalar) := by
    refine (Int.le_ceil _).trans ?_
    exact_mod_cast Int.self_le_toNat _
  rw [policeBound]
  exact (div_le_iff₀ hp).mp h1

end Sys2Proof.Machine
end

