-- ==== Sys2Proof/Laws/Flags.lean ====
section
/-! SUPPORT. When an outcome counts as clamped (60_exceptions.md R120, R121). -/

namespace Sys2Proof.Machine

theorem brightnessClamped_iff (x : Scalar) : brightnessClamped x = true ↔ x < 0 ∨ 1 < x := by
  simp [brightnessClamped]

theorem colourClamped_iff (q : Scalar) (c : Colour) : colourClamped q c = true ↔ clampsChannel q c := by
  simp only [colourClamped, channelClamped, Bool.or_eq_true, decide_eq_true_iff]
  simp [clampsChannel, scaleFn, or_assoc]

/-- Emitting some colours is O_CLAMP where a channel of one of them is clamped, and OK otherwise. -/
theorem emissionCode_clampCode (q : Scalar) (cs : List Colour) :
    clampCode (emissionCode q cs) (∃ c ∈ cs, clampsChannel q c) := by
  have h : cs.any (colourClamped q) = true ↔ ∃ c ∈ cs, clampsChannel q c := by
    simp [List.any_eq_true, colourClamped_iff]
  exact ⟨fun hc => if_pos (h.2 hc), fun hc => if_neg fun h' => hc (h.1 h')⟩

/-- The code of a brightness operand. -/
theorem brightnessCode_clampCode (x : Scalar) :
    clampCode (if brightnessClamped x then .oClamp else .ok) (x < 0 ∨ 1 < x) :=
  ⟨fun h => if_pos ((brightnessClamped_iff x).2 h), fun h => if_neg fun h' => h ((brightnessClamped_iff x).1 h')⟩

end Sys2Proof.Machine
end

