-- ==== Sys2Proof/Laws/PerInstr.lean ====
section
/-! SUPPORT. A statement per operation about its command (30_encoding.md R55, R56): the host can issue it exactly when it
has a command, and the command has as many operands as the table gives it. -/

namespace Sys2Proof.Laws.CommandShape

/-- The operation has a command exactly when the host can issue it, and the command has the operation's operand count. -/
def Statement (i : Instr) : Prop :=
  (encode i).isSome = i.hostIssued ∧ ∀ c, encode i = some c → c.operands.length = operandCount c.opcode

theorem of_none {i : Instr} (h : encode i = none) (hi : i.hostIssued = false) : Statement i := by
  simp [Statement, h, hi]

theorem of_some {i : Instr} {c : Command} (h : encode i = some c) (hi : i.hostIssued = true)
    (hc : c.operands.length = operandCount c.opcode) : Statement i := by
  refine ⟨by simp [h, hi], fun c' h' => ?_⟩
  rw [h] at h'
  injection h' with h'
  exact h' ▸ hc

theorem sendBit (b : Bool) : Statement (.sendBit b) := of_none rfl rfl
theorem sendByte (v : Byte) : Statement (.sendByte v) := of_none rfl rfl
theorem latch : Statement .latch := of_none rfl rfl
theorem init (p q : Int) (x : Scalar) : Statement (.init p q x) := of_some rfl rfl rfl
theorem emitPixel (r g b : Int) : Statement (.emitPixel r g b) := of_some rfl rfl rfl
theorem setBrightness (x : Scalar) : Statement (.setBrightness x) := of_some rfl rfl rfl
theorem setColor (r g b index : Int) : Statement (.setColor r g b index) := of_some rfl rfl rfl
theorem setColorHex (str : List Char) : Statement (.setColorHex str) := of_some rfl rfl rfl
theorem clear : Statement .clear := of_some rfl rfl rfl
theorem getStatus : Statement .getStatus := of_some rfl rfl rfl
theorem cleanup : Statement .cleanup := of_some rfl rfl rfl
theorem demoSequence (delay : Scalar) : Statement (.demoSequence delay) := of_some rfl rfl rfl
theorem breathingEffect (r g b cycles : Int) (duration : Scalar) :
    Statement (.breathingEffect r g b cycles duration) := of_some rfl rfl rfl
theorem rainbow (cycles : Int) (speed : Scalar) : Statement (.rainbow cycles speed) := of_some rfl rfl rfl
theorem policeLights (duration speed : Scalar) : Statement (.policeLights duration speed) := of_some rfl rfl rfl
theorem fadeBetweenColors (c1 c2 : Colour) (steps : Int) (duration : Scalar) :
    Statement (.fadeBetweenColors c1 c2 steps duration) := of_some rfl rfl rfl

end Sys2Proof.Laws.CommandShape
end

