-- ==== Sys2Proof/Laws/Step.lean ====
section
/-! SUPPORT. The dispatch and the step, said once: every operation performs its plan, and a step is one of five things. -/

namespace Sys2Proof.Machine

/-- Every meaning is its plan, performed whole. -/
theorem exec_eq_perform (i : Instr) (s : State) : exec i s = perform (planOf i s) s := by
  cases i <;> rfl

/-- An operation that answers a next state ran the whole of its plan. -/
theorem exec_next {i : Instr} {s t : State} (h : exec i s = .next t) : ∃ ms, planOf i s = .ok ms ∧ t = run ms s := by
  rw [exec_eq_perform] at h
  obtain ⟨ms, hp, hr⟩ | ⟨r, hp, hr⟩ := perform_cases (planOf i s) s
  · rw [hr] at h; exact ⟨ms, hp, by injection h with h; exact h.symm⟩
  · rw [hr] at h; cases h

/-- No operation faults. -/
theorem exec_no_fault (i : Instr) (s : State) (f : Fault) : exec i s ≠ .fault f := nomatch f

theorem takeTeardown_next {again : Bool} {s t : State} (h : takeTeardown again s = .next t) :
    again = false ∧ t = teardown s := by
  cases again with
  | true => cases h
  | false => exact ⟨rfl, by injection h with h; exact h.symm⟩

/-- A cut that answers a next state ran a first part of the plan of an operation other than CLEANUP, then the hook. -/
theorem cutAt_next {n : Nat} {again : Bool} {i : Instr} {s t : State} (h : cutAt n again i s = .next t) :
    ∃ ms, planOf i s = .ok ms ∧ i ≠ .cleanup ∧ again = false ∧ t = teardown (run (ms.take n) s) := by
  unfold cutAt at h
  split at h
  · cases h
  · rename_i ms hp
    split at h
    · cases h
    · obtain ⟨ha, ht⟩ := takeTeardown_next h
      exact ⟨ms, hp, ‹_›, ha, ht⟩

/-- Everything a step that answers a next state can have done: nothing (the process has exited, or no input waits); a whole
operation; a first part of one and then the hook; the hook alone. -/
theorem step_next {s t : State} (h : step s = .next t) :
    t = s ∨
    (s.process = .running ∧ ∃ input rest, s.inputs = input :: rest ∧
      ((∃ c i, input = .command c ∧ decode c = .ok i ∧ exec i { s with inputs := rest } = .next t) ∨
       (∃ c n i ms, input = .commandCut c n false ∧ decode c = .ok i ∧ i ≠ .cleanup ∧
          planOf i { s with inputs := rest } = .ok ms ∧
          t = teardown (run (ms.take n) { s with inputs := rest })) ∨
       ((input = .terminate false ∨ input = .exit false) ∧ t = teardown { s with inputs := rest }))) := by
  unfold step stepInput at h
  split at h
  · left; injection h with h; exact h.symm
  · rename_i hp
    split at h
    · left; injection h with h; exact h.symm
    · rename_i input rest hi
      refine .inr ⟨hp, input, rest, hi, ?_⟩
      cases input with
      | command c =>
        simp only [serve] at h
        split at h
        · exact .inl ⟨c, _, rfl, ‹_›, h⟩
        · cases h
      | commandCut c n again =>
        simp only [serve] at h
        split at h
        · obtain ⟨ms, hm, hc, ha, ht⟩ := cutAt_next h
          subst ha
          exact .inr (.inl ⟨c, n, _, ms, rfl, ‹_›, hc, hm, ht⟩)
        · cases h
      | terminate again =>
        obtain ⟨ha, ht⟩ := takeTeardown_next h
        subst ha
        exact .inr (.inr ⟨.inl rfl, ht⟩)
      | exit again =>
        obtain ⟨ha, ht⟩ := takeTeardown_next h
        subst ha
        exact .inr (.inr ⟨.inr rfl, ht⟩)

/-- A running machine serves its next input. -/
theorem step_input {s : State} {input : Input} {rest : List Input} (hp : s.process = .running)
    (hi : s.inputs = input :: rest) : step s = serve input { s with inputs := rest } := by
  unfold step stepInput
  split
  · rename_i he; rw [hp] at he; cases he
  · split
    · rename_i he; rw [hi] at he; cases he
    · rename_i he; rw [hi] at he; cases he; rfl

/-- A command that decodes is its operation. -/
theorem serve_command {c : Command} {i : Instr} (h : decode c = .ok i) (s : State) :
    serve (.command c) s = exec i s := by
  simp only [serve, h]

/-- A cut operation that the spec admits: its first micro-actions, then the hook (R129, R131). -/
theorem serve_commandCut {c : Command} {i : Instr} {n : Nat} {s : State} {ms : List Micro} (h : decode c = .ok i)
    (hi : i ≠ .cleanup) (hm : planOf i s = .ok ms) :
    serve (.commandCut c n false) s = .next (teardown (run (ms.take n) s)) := by
  simp only [serve, h, cutAt, hm, hi, takeTeardown, if_false, Bool.false_eq_true]

end Sys2Proof.Machine
end

