-- ==== Sys2Proof/Laws/Plan.lean ====
section
/-! SUPPORT. What the plan of every operation is made of, said once: an operation other than INIT, SET_BRIGHTNESS and CLEANUP
has a plan in READY only, and no micro-action of it writes a control register. -/

namespace Sys2Proof.Machine

/-- The micro-actions that write no control register, LIFECYCLE, nor the platform's or the host's side but `reply`. -/
def keepsControl (m : Micro) : Bool :=
  isWire m || (match m with | .readClock => true | .reply _ => true | _ => false)

theorem applyMicro_keepsControl (m : Micro) (h : keepsControl m = true) (s : State) : sameControl s (applyMicro s m) := by
  cases m with
  | event e =>
    cases e with
    | w line v => cases line <;> simp [sameControl]
    | acquire p q => simp [keepsControl, isWire] at h
    | release p q => simp [keepsControl, isWire] at h
    | _ => simp [sameControl]
  | setDataPin | setClockPin | setBrightness | setLifecycle | raiseEInit => simp [keepsControl, isWire] at h
  | _ => simp [sameControl]

theorem run_keepsControl (ms : List Micro) (h : ms.all keepsControl = true) (s : State) : sameControl s (run ms s) := by
  suffices hf : ∀ s, sameControl s (ms.foldl applyMicro s) from hf s
  induction ms with
  | nil => exact sameControl_refl
  | cons m ms ih =>
    intro s
    simp only [List.all_cons, Bool.and_eq_true] at h
    exact sameControl_trans (applyMicro_keepsControl m h.1 s) (ih h.2 (applyMicro s m))

theorem keepsControl_of_isWire {ms : List Micro} (h : ms.all isWire = true) : ms.all keepsControl = true := by
  rw [List.all_eq_true] at *
  intro m hm
  simp [keepsControl, h m hm]

/-- A first part of a list that keeps the control registers keeps them. -/
theorem keepsControl_take {ms : List Micro} (h : ms.all keepsControl = true) (n : Nat) :
    (ms.take n).all keepsControl = true := by
  rw [List.all_eq_true] at *
  exact fun m hm => h m (List.mem_of_mem_take hm)

theorem emitPixelScript_keepsControl (q : Scalar) (r g b : Int) : (emitPixelScript q r g b).all keepsControl = true :=
  keepsControl_of_isWire (emitPixelScript_isWire q r g b)

theorem emitAndWait_keepsControl (q d : Scalar) (c : Colour) : (emitAndWait q d c).all keepsControl = true := by
  rw [emitAndWait, List.all_append, emitPixelScript_keepsControl]; rfl

theorem emissions_keepsControl (q d : Scalar) (cs : List Colour) :
    (cs.flatMap (emitAndWait q d)).all keepsControl = true := by
  induction cs with
  | nil => rfl
  | cons c cs ih => rw [List.flatMap_cons, List.all_append, ih, emitAndWait_keepsControl]; rfl

theorem setColorScript_keepsControl (ledCount : Int) (q : Scalar) (r g b index : Int) :
    (setColorScript ledCount q r g b index).all keepsControl = true := by
  unfold setColorScript
  split
  · exact emitPixelScript_keepsControl q r g b
  · rfl

theorem rainbowLoop_keepsControl (ledCount : Int) (q d : Scalar) (cs : List Colour) :
    (cs.flatMap fun c => setColorScript ledCount q c.r c.g c.b 0 ++ [.event (.wait d)]).all keepsControl = true := by
  induction cs with
  | nil => rfl
  | cons c cs ih => rw [List.flatMap_cons, List.all_append, ih, List.all_append, setColorScript_keepsControl]; rfl

theorem policePair_keepsControl (q d : Scalar) : (policePair q d).all keepsControl = true := by
  simp only [policePair, List.all_append, emitAndWait_keepsControl]; rfl

theorem policeLoop_keepsControl (duration speed start : Scalar) (n : Nat) (s : State) :
    (policeLoop duration speed start n s).all keepsControl = true := by
  induction n generalizing s with
  | zero => rfl
  | succ n ih =>
    rw [policeLoop]
    split
    · rw [List.all_cons, List.all_append, policePair_keepsControl, ih]; rfl
    · rfl

theorem whenTimes_ok {ts : List Scalar} {p : Plan} {ms : List Micro} (h : whenTimes ts p = .ok ms) : p = .ok ms := by
  unfold whenTimes at h
  split at h
  · exact h
  · cases h

/-- Every operation but INIT, SET_BRIGHTNESS and CLEANUP: it has a plan in READY only, and the plan keeps the control
registers, LIFECYCLE, the platform's side and the host's inputs. -/
theorem planOf_keepsControl {i : Instr} {s : State} {ms : List Micro} (h : planOf i s = .ok ms)
    (h1 : ∀ p q x, i ≠ .init p q x) (h2 : ∀ x, i ≠ .setBrightness x) (h3 : i ≠ .cleanup) :
    s.lifecycle = .ready ∧ ms.all keepsControl = true := by
  cases i with
  | init p q x => exact absurd rfl (h1 p q x)
  | setBrightness x => exact absurd rfl (h2 x)
  | cleanup => exact absurd rfl h3
  | sendBit b => obtain ⟨hr, he⟩ := whenReady_ok h; cases he; exact ⟨hr, rfl⟩
  | sendByte v =>
    obtain ⟨hr, he⟩ := whenReady_ok h; cases he
    exact ⟨hr, keepsControl_of_isWire (sendByteScript_isWire v)⟩
  | latch => obtain ⟨hr, he⟩ := whenReady_ok h; cases he; exact ⟨hr, rfl⟩
  | emitPixel r g b =>
    obtain ⟨hr, he⟩ := whenReady_ok h; cases he
    exact ⟨hr, by rw [List.all_append, emitPixelScript_keepsControl]; rfl⟩
  | setColor r g b index =>
    obtain ⟨hr, he⟩ := whenReady_ok h; cases he
    exact ⟨hr, by rw [List.all_append, setColorScript_keepsControl]; rfl⟩
  | setColorHex str =>
    obtain ⟨hr, he⟩ := whenReady_ok h; cases he
    refine ⟨hr, ?_⟩
    rw [List.all_append, setColorHexScript]
    split
    · rw [setColorScript_keepsControl]; rfl
    · rfl
  | clear =>
    obtain ⟨hr, he⟩ := whenReady_ok h; cases he
    exact ⟨hr, by rw [List.all_append, clearScript, emitPixelScript_keepsControl]; rfl⟩
  | getStatus => obtain ⟨hr, he⟩ := whenReady_ok h; cases he; exact ⟨hr, rfl⟩
  | demoSequence delay =>
    obtain ⟨hr, he⟩ := whenReady_ok h; cases whenTimes_ok he
    exact ⟨hr, by
      rw [List.all_append, demoScript, List.all_append, emissions_keepsControl, clearScript,
        emitPixelScript_keepsControl]
      rfl⟩
  | breathingEffect r g b cycles duration =>
    obtain ⟨hr, he⟩ := whenReady_ok h; cases whenTimes_ok he
    exact ⟨hr, by rw [List.all_append, breathScript, emissions_keepsControl]; rfl⟩
  | rainbow cycles speed =>
    obtain ⟨hr, he⟩ := whenReady_ok h; cases whenTimes_ok he
    exact ⟨hr, by rw [List.all_append, rainbowScript, rainbowLoop_keepsControl]; rfl⟩
  | policeLights duration speed =>
    obtain ⟨hr, he⟩ := whenReady_ok h; cases whenTimes_ok he
    exact ⟨hr, by rw [List.all_append, policeScript, List.all_cons, policeLoop_keepsControl]; rfl⟩
  | fadeBetweenColors c1 c2 steps duration =>
    obtain ⟨hr, he⟩ := whenReady_ok h
    split at he
    · cases he
    · cases whenTimes_ok he
      exact ⟨hr, by rw [List.all_append, fadeScript, emissions_keepsControl]; rfl⟩

/-- SEQ is IDLE and both lines are low (10_state.md R25). -/
def atRest (s : State) : Prop :=
  s.seq = .idle ∧ s.dataLvl = .low ∧ s.clkLvl = .low

theorem atRest_emitPixelScript (q : Scalar) (r g b : Int) (s : State) : atRest (run (emitPixelScript q r g b) s) := by
  rw [run_emitPixelScript]; exact ⟨rfl, rfl, rfl⟩

theorem atRest_emissions (q d : Scalar) (cs : List Colour) (s : State) (h : atRest s) :
    atRest (run (cs.flatMap (emitAndWait q d)) s) := by
  induction cs generalizing s with
  | nil => simpa using h
  | cons c cs ih =>
    rw [List.flatMap_cons, run_append]
    refine ih _ ?_
    rw [run_emitAndWait]; exact ⟨rfl, rfl, rfl⟩

theorem atRest_setColorScript (ledCount : Int) (q : Scalar) (r g b index : Int) (s : State) (h : atRest s) :
    atRest (run (setColorScript ledCount q r g b index) s) := by
  unfold setColorScript
  split
  · exact atRest_emitPixelScript q r g b s
  · simpa using h

theorem atRest_rainbowLoop (ledCount : Int) (q d : Scalar) (cs : List Colour) (s : State) (h : atRest s) :
    atRest (run (cs.flatMap fun c => setColorScript ledCount q c.r c.g c.b 0 ++ [.event (.wait d)]) s) := by
  induction cs generalizing s with
  | nil => simpa using h
  | cons c cs ih =>
    rw [List.flatMap_cons, run_append]
    refine ih _ ?_
    rw [run_append]; exact atRest_setColorScript ledCount q c.r c.g c.b 0 s h

theorem atRest_policeLoop (duration speed start : Scalar) (n : Nat) (s s' : State) (h : atRest s') :
    atRest (run (policeLoop duration speed start n s) s') := by
  induction n generalizing s s' with
  | zero => exact h
  | succ n ih =>
    rw [policeLoop]
    split
    · rw [run_cons, run_append]
      refine ih _ _ ?_
      rw [run_policePair]; exact ⟨rfl, rfl, rfl⟩
    · exact h

theorem atRest_reply (ms : List Micro) (r : Reply) (s : State) (h : atRest (run ms s)) :
    atRest (run (ms ++ [.reply r]) s) := by
  rw [run_append, run_reply]; exact h

/-- Every operation the host can issue but INIT and CLEANUP ends at rest if it began there (R25). -/
theorem planOf_atRest {i : Instr} {s : State} {ms : List Micro} (h : planOf i s = .ok ms) (hs : atRest s)
    (hi : i.hostIssued = true) (h1 : ∀ p q x, i ≠ .init p q x) (h3 : i ≠ .cleanup) : atRest (run ms s) := by
  cases i with
  | init p q x => exact absurd rfl (h1 p q x)
  | cleanup => exact absurd rfl h3
  | sendBit b => cases hi
  | sendByte v => cases hi
  | latch => cases hi
  | setBrightness x => obtain ⟨-, he⟩ := whenReady_ok h; cases he; exact hs
  | emitPixel r g b =>
    obtain ⟨-, he⟩ := whenReady_ok h; cases he
    exact atRest_reply _ _ _ (atRest_emitPixelScript _ _ _ _ _)
  | setColor r g b index =>
    obtain ⟨-, he⟩ := whenReady_ok h; cases he
    exact atRest_reply _ _ _ (atRest_setColorScript _ _ _ _ _ _ _ hs)
  | setColorHex str =>
    obtain ⟨-, he⟩ := whenReady_ok h; cases he
    refine atRest_reply _ _ _ ?_
    rw [setColorHexScript]
    split
    · exact atRest_setColorScript _ _ _ _ _ _ _ hs
    · rw [run_nil]; exact hs
  | clear =>
    obtain ⟨-, he⟩ := whenReady_ok h; cases he
    exact atRest_reply _ _ _ (atRest_emitPixelScript _ _ _ _ _)
  | getStatus => obtain ⟨-, he⟩ := whenReady_ok h; cases he; exact hs
  | demoSequence delay =>
    obtain ⟨-, he⟩ := whenReady_ok h; cases whenTimes_ok he
    refine atRest_reply _ _ _ ?_
    rw [demoScript, run_append]; exact atRest_emitPixelScript _ _ _ _ _
  | breathingEffect r g b cycles duration =>
    obtain ⟨-, he⟩ := whenReady_ok h; cases whenTimes_ok he
    exact atRest_reply _ _ _ (atRest_emissions _ _ _ _ hs)
  | rainbow cycles speed =>
    obtain ⟨-, he⟩ := whenReady_ok h; cases whenTimes_ok he
    exact atRest_reply _ _ _ (atRest_rainbowLoop _ _ _ _ _ hs)
  | policeLights duration speed =>
    obtain ⟨-, he⟩ := whenReady_ok h; cases whenTimes_ok he
    refine atRest_reply _ _ _ ?_
    rw [policeScript, run_cons]
    exact atRest_policeLoop _ _ _ _ _ _ (by rw [run_readClock]; exact hs)
  | fadeBetweenColors c1 c2 steps duration =>
    obtain ⟨-, he⟩ := whenReady_ok h
    split at he
    · cases he
    · cases whenTimes_ok he
      exact atRest_reply _ _ _ (atRest_emissions _ _ _ _ hs)

end Sys2Proof.Machine
end

