-- ==== Sys2Proof/Tests/Slice0.lean ====
section
/-! SUPPORT. Own tests: ill-formed terms, commands and frames as the spec writes them, single steps, and for every statement
that has hypotheses a state and operands that meet them. Expected values are from 95_test_vectors.md (TV) or from the rule
named. -/

namespace Sys2Proof.Tests

open Sys2Proof Sys2Proof.Machine

/-! ### States and readings -/

/-- A driver in READY on pins 23, 24 with both lines low, whose TRACE says so. -/
def ready : State :=
  { State.reset with lifecycle := .ready, dataLvl := .low, clkLvl := .low,
                     trace := [.acquire 23 24, .w .data false, .w .clk false] }

/-- The same at a brightness. -/
def readyAt (q : Scalar) : State :=
  { ready with brightness := q }

/-- A torn-down driver. -/
def released : State :=
  { State.reset with lifecycle := .released }

/-- The platform refuses its pins. -/
def noPins : State :=
  { State.reset with pinSetupOk := false }

/-- A state with inputs waiting. -/
def sending (inputs : List Input) (s : State) : State :=
  { s with inputs := inputs }

/-- A property of the next state; false if there is none. -/
def nextIs (p : State → Bool) : Host.Outcome State Fault Refusal → Bool
  | .next t => p t
  | .fault _ => false
  | .refused _ => false

/-- The reason of a refusal. -/
def refusal : Host.Outcome State Fault Refusal → Option Refusal
  | .next _ => none
  | .fault _ => none
  | .refused r => some r

/-- The levels the receiver samples in what a state has added to the TRACE of `ready`. -/
def bitsSince (t : State) : List Level :=
  rxFrom ⟨.low, .low⟩ (t.trace.drop 3)

/-- The levels of some bytes, most significant bit first. -/
def levels (bytes : List Byte) : List Level :=
  (wireBits bytes).map levelOf

/-! ### Ill-formed terms -/

theorem test_wf_init_same_pin : (Instr.init 23 23 1).wf = false := by decide
theorem test_wf_demo_negative : (Instr.demoSequence (-1)).wf = false := by decide +kernel
theorem test_wf_breathing_negative : (Instr.breathingEffect 1 2 3 1 (-1 / 2)).wf = false := by decide +kernel
theorem test_wf_rainbow_negative : (Instr.rainbow 1 (-1)).wf = false := by decide +kernel
theorem test_wf_police_duration_negative : (Instr.policeLights (-1) 0).wf = false := by decide +kernel
theorem test_wf_police_speed_negative : (Instr.policeLights 1 (-1)).wf = false := by decide +kernel
theorem test_wf_fade_no_step : (Instr.fadeBetweenColors ⟨0, 0, 0⟩ ⟨1, 1, 1⟩ 0 1).wf = false := by decide +kernel
theorem test_wf_fade_negative : (Instr.fadeBetweenColors ⟨0, 0, 0⟩ ⟨1, 1, 1⟩ 1 (-1)).wf = false := by decide +kernel
theorem test_wf_fade_one_step : (Instr.fadeBetweenColors ⟨0, 0, 0⟩ ⟨1, 1, 1⟩ 1 0).wf = true := by decide +kernel

/-! ### Commands (30_encoding.md R54 to R57; the encodings of TV section 3) -/

theorem test_decode_init : decode ⟨0x00, [.int 23, .int 24, .scalar 7]⟩ = .ok (.init 23 24 7) := rfl
theorem test_decode_init_defaults : decode ⟨0x00, []⟩ = .ok (.init 23 24 1) := rfl
theorem test_decode_emit_pixel : decode ⟨0x01, [.int 1000, .int (-5), .int 300]⟩ = .ok (.emitPixel 1000 (-5) 300) := rfl
theorem test_decode_set_brightness : decode ⟨0x02, [.scalar (1 / 2)]⟩ = .ok (.setBrightness (1 / 2)) := rfl
theorem test_decode_set_color : decode ⟨0x03, [.int 1, .int 2, .int 3, .int 5]⟩ = .ok (.setColor 1 2 3 5) := rfl
theorem test_decode_set_color_default : decode ⟨0x03, [.int 255, .int 0, .int 255]⟩ = .ok (.setColor 255 0 255 0) := rfl
theorem test_decode_set_color_hex :
    decode ⟨0x04, [.str ['1', '2', '3', '4', '5']]⟩ = .ok (.setColorHex ['1', '2', '3', '4', '5']) := rfl
theorem test_decode_clear : decode ⟨0x05, []⟩ = .ok .clear := rfl
theorem test_decode_get_status : decode ⟨0x06, []⟩ = .ok .getStatus := rfl
theorem test_decode_cleanup : decode ⟨0x07, []⟩ = .ok .cleanup := rfl
theorem test_decode_demo : decode ⟨0x10, [.scalar (1 / 2)]⟩ = .ok (.demoSequence (1 / 2)) := rfl
theorem test_decode_breathing :
    decode ⟨0x11, [.int 1, .int 2, .int 3, .int 4, .scalar 5]⟩ = .ok (.breathingEffect 1 2 3 4 5) := rfl
theorem test_decode_rainbow : decode ⟨0x12, [.int 2, .scalar 3]⟩ = .ok (.rainbow 2 3) := rfl
theorem test_decode_police : decode ⟨0x13, [.scalar 2, .scalar 3]⟩ = .ok (.policeLights 2 3) := rfl
theorem test_decode_fade :
    decode ⟨0x14, [.colour ⟨0, 0, 0⟩, .colour ⟨255, 255, 255⟩, .int 4, .scalar 1]⟩ =
      .ok (.fadeBetweenColors ⟨0, 0, 0⟩ ⟨255, 255, 255⟩ 4 1) := rfl

theorem test_decode_unknown :
    [(0x08 : Byte), 0x0F, 0x15, 0xFF].all (fun op => decide ((decode ⟨op, []⟩).toOption = none)) = true := by decide
theorem test_decode_missing : decode ⟨0x01, [.int 1, .int 2]⟩ = .error (.missingOperand 2) := rfl
theorem test_decode_wrong_type : decode ⟨0x01, [.int 1, .scalar 2, .int 3]⟩ = .error (.wrongType 1) := rfl
theorem test_decode_extra : decode ⟨0x05, [.int 1]⟩ = .error .extraOperands := rfl
theorem test_table_word : decodeTableWord 8 0x05 = some .clear := rfl
theorem test_table_word_unknown : decodeTableWord 8 0x08 = none := rfl

/-! ### Operands -/

/-- TV 2.2: channels, control byte and frame. -/
theorem test_frames_at_one :
    frameOf 1 ⟨255, 165, 0⟩ = [0, 0, 0, 0, 0xC7, 0x00, 0xA5, 0xFF, 0, 0, 0, 0] ∧
    frameOf 1 ⟨64, 127, 191⟩ = [0, 0, 0, 0, 0xE9, 0xBF, 0x7F, 0x40, 0, 0, 0, 0] ∧
    frameOf 1 ⟨63, 64, 128⟩ = [0, 0, 0, 0, 0xF9, 0x80, 0x40, 0x3F, 0, 0, 0, 0] ∧
    frameOf 1 ⟨-1, -256, 256⟩ = [0, 0, 0, 0, 0xFC, 0xFF, 0x00, 0x00, 0, 0, 0, 0] := by decide +kernel

theorem test_frames_dimmed :
    frameOf (1 / 2) ⟨255, 165, 0⟩ = [0, 0, 0, 0, 0xEB, 0x00, 0x52, 0x7F, 0, 0, 0, 0] ∧
    frameOf (1 / 5) ⟨1000, -5, 300⟩ = [0, 0, 0, 0, 0xCF, 0x3C, 0x00, 0xC8, 0, 0, 0, 0] ∧
    frameOf (3 / 10) ⟨10, 10, 10⟩ = [0, 0, 0, 0, 0xFF, 0x03, 0x03, 0x03, 0, 0, 0, 0] ∧
    frameOf (17 / 20) ⟨300, 300, 300⟩ = [0, 0, 0, 0, 0xC0, 0xFF, 0xFF, 0xFF, 0, 0, 0, 0] := by decide +kernel

/-- R86: the malformed and the well-formed strings it lists. -/
theorem test_hex_malformed :
    [[], ['#'], ['b', 'a', 'd'], ['1', '2', '3', '4', '5'], ['#', '#', 'F', 'F', '0', '0', 'F', 'F'],
      ['G', 'G', '0', '0', '0', '0'], ['F', 'F', ' ', '0', 'F', 'F'], ['+', 'F', '0', '0', 'F', 'F']].all
        (fun s => decide (parseHex s = none)) = true := by decide
theorem test_hex_well_formed :
    parseHex ['#', 'f', 'f', 'a', '5', '0', '0'] = some ⟨255, 165, 0⟩ ∧
    parseHex ['0', '1', '0', '2', '0', '3'] = some ⟨1, 2, 3⟩ := by decide

/-- R104, R108: the colours of their examples. -/
theorem test_breathing_colours :
    (breathColours ⟨255, 100, 0⟩ 1)[1]? = some ⟨5, 2, 0⟩ ∧ (breathColours ⟨255, 100, 0⟩ 1)[49]? = some ⟨249, 98, 0⟩ ∧
    (breathColours ⟨255, 100, 0⟩ 1)[50]? = some ⟨255, 100, 0⟩ ∧ (breathColours ⟨255, 100, 0⟩ 1)[100]? = some ⟨0, 0, 0⟩ := by
  decide +kernel
theorem test_fade_colours :
    fadeColours ⟨255, 0, 10⟩ ⟨0, 255, 20⟩ 4 =
      [⟨255, 0, 10⟩, ⟨191, 63, 12⟩, ⟨127, 127, 15⟩, ⟨63, 191, 17⟩, ⟨0, 255, 20⟩] := by decide +kernel

/-! ### Single operations -/

/-- TV 2.1: SEND_BIT(0) entered with the clock high gives the receiver nothing. -/
theorem test_send_bit_high_clock :
    nextIs (fun t => decide (rxFrom ⟨.low, .high⟩ (t.trace.drop 3) = [] ∧ t.clkLvl = .low))
      (exec (.sendBit false) { ready with clkLvl := .high }) = true := by decide +kernel

/-- TV 2.1: SEND_BYTE(0xC7). -/
theorem test_send_byte :
    nextIs (fun t => decide (bitsSince t = [.high, .high, .low, .low, .low, .high, .high, .high] ∧ t.sr = 0 ∧
      t.dataLvl = .high)) (exec (.sendByte 0xC7) ready) = true := by decide +kernel

/-- R67: LATCH from the last position of a frame. -/
theorem test_latch :
    nextIs (fun t => decide (t.seq = .idle ∧ t.trace.drop 3 = [.d .latch])) (exec .latch { ready with seq := .latch }) =
      true := by decide +kernel

/-- TV 2.2, the bit-level vector. -/
theorem test_emit_pixel_bits :
    nextIs (fun t => decide (bitsSince t = levels [0, 0, 0, 0, 0xC7, 0x00, 0xA5, 0xFF, 0, 0, 0, 0]))
      (exec (.emitPixel 255 165 0) ready) = true := by decide +kernel

/-- R80, the example: INIT with its defaults, issued to the machine at reset. -/
theorem test_init_from_reset :
    nextIs (fun t => decide (t.lifecycle = .ready ∧ t.dataPin = 23 ∧ t.clockPin = 24 ∧ t.brightness = 1 ∧
      t.dataLvl = .low ∧ t.clkLvl = .low ∧ t.trace.length = 484 ∧
      t.trace.take 3 = [.acquire 23 24, .w .data false, .w .clk false]))
      (step (State.reset.withFetchWord 8 0x00)) = true := by decide +kernel

/-- TV 3.5: construction fails, then only CLEANUP answers. -/
theorem test_init_fails :
    nextIs (fun t => decide (t.lifecycle = .failed ∧ t.trace = [] ∧ t.dataLvl = .x ∧ t.reply = .raised .eInit ∧
      refusal (exec (.emitPixel 1 2 3) t) = some .notReady)) (exec (.init 23 24 1) noPins) = true := by decide +kernel

/-- R82, the examples. -/
theorem test_set_brightness :
    nextIs (fun t => decide (t.brightness = 1 ∧ t.reply = .scalar 1 ∧ t.trace = ready.trace))
      (exec (.setBrightness (3 / 2)) ready) = true ∧
    nextIs (fun t => decide (t.brightness = 0)) (exec (.setBrightness (-1 / 10)) ready) = true := by decide +kernel

/-- TV 2.4: SET_COLOR at index 0, 5 and -1. -/
theorem test_set_color :
    nextIs (fun t => decide (bitsSince t = levels [0, 0, 0, 0, 0xCC, 0xFF, 0x00, 0xFF, 0, 0, 0, 0] ∧
      t.reply = .bool true)) (exec (.setColor 255 0 255 0) ready) = true := by decide +kernel
theorem test_set_color_bad_index :
    [(5 : Int), 1, -1].all (fun k => nextIs (fun t => decide (t.trace = ready.trace ∧ t.reply = .bool false))
      (exec (.setColor 9999 (-9999) 0 k) ready)) = true := by decide +kernel

/-- TV 2.4: the hex colour at half brightness. -/
theorem test_set_color_hex :
    nextIs (fun t => decide (bitsSince t = levels [0, 0, 0, 0, 0xEB, 0x00, 0x52, 0x7F, 0, 0, 0, 0] ∧ t.reply = .done))
      (exec (.setColorHex ['#', 'F', 'F', 'A', '5', '0', '0']) (readyAt (1 / 2))) = true := by decide +kernel
theorem test_set_color_hex_ignored :
    exec (.setColorHex ['b', 'a', 'd']) ready = .next { ready with reply := .done } := rfl

/-- R87, the example. -/
theorem test_clear :
    nextIs (fun t => decide (bitsSince t = levels [0, 0, 0, 0, 0xFF, 0, 0, 0, 0, 0, 0, 0] ∧ t.brightness = 1 / 2))
      (exec .clear (readyAt (1 / 2))) = true := by decide +kernel

/-- R88, the example. -/
theorem test_get_status :
    exec .getStatus ready = .next { ready with reply := .status ⟨23, 24, 1, 1, Config.modeValue⟩ } := rfl

/-- R89, R90: the black frame and the release; nothing the second time. -/
theorem test_cleanup :
    nextIs (fun t => decide (t.trace.length = 3 + 482 ∧ t.trace.getLast? = some (.release 23 24) ∧
      t.lifecycle = .released ∧ t.dataLvl = .x ∧ t.clkLvl = .x)) (exec .cleanup ready) = true := by decide +kernel
theorem test_cleanup_again : exec .cleanup released = .next { released with reply := .done } := rfl

/-- R103: ten frames and nine waits. -/
theorem test_demo :
    nextIs (fun t => decide ((t.trace.drop 3).length = 10 * 481 + 9 ∧ (t.trace.drop 3).count (.wait (1 / 2)) = 9))
      (exec (.demoSequence (1 / 2)) ready) = true := by decide +kernel

/-- R102: no cycle, no frame; and a negative time is refused. -/
theorem test_breathing_no_cycle :
    nextIs (fun t => decide (t.trace = ready.trace ∧ t.reply = .done)) (exec (.breathingEffect 1 2 3 (-4) 1) ready) =
      true := by decide +kernel
theorem test_rainbow_no_cycle :
    nextIs (fun t => decide (t.trace = ready.trace)) (exec (.rainbow 0 0) ready) = true := by decide +kernel
theorem test_rainbow_negative : refusal (exec (.rainbow 0 (-1)) ready) = some .negativeTime := by decide +kernel

/-- R107: `duration = 0` sends no frame. -/
theorem test_police_zero :
    nextIs (fun t => decide (t.trace = ready.trace ∧ t.draws = 2)) (exec (.policeLights 0 1) ready) = true := by
  decide +kernel

/-- R108: two emissions with one step, each with its wait; no step is refused. -/
theorem test_fade_one_step :
    nextIs (fun t => decide ((t.trace.drop 3).length = 2 * 482 ∧ (t.trace.drop 3).count (.wait 3) = 2))
      (exec (.fadeBetweenColors ⟨0, 0, 0⟩ ⟨255, 255, 255⟩ 1 3) ready) = true := by decide +kernel
theorem test_fade_no_step :
    refusal (exec (.fadeBetweenColors ⟨0, 0, 0⟩ ⟨255, 255, 255⟩ 0 1) ready) = some .stepsBelowOne := by decide +kernel

/-! ### The step -/

/-- R134: before INIT every other operation is refused. -/
theorem test_not_ready : refusal (step (State.reset.withFetchWord 8 0x05)) = some .notReady := by decide +kernel

/-- R57. -/
theorem test_unknown_opcode : refusal (step (State.reset.withFetchWord 8 0x08)) = some (.unknownOpcode 0x08) := by
  decide +kernel

/-- R129, R131: TERMINATE after `W(CLK, 1)` of the first cell of an emission: the clock is high, so the black frame gives 95
elements, and the process exits. -/
theorem test_terminate_clock_high :
    nextIs (fun t => decide ((rxBits t.trace).length = 1 + 95 ∧ t.process = .exited ∧ t.lifecycle = .released))
      (step (sending [.commandCut ⟨0x01, [.int 0, .int 0, .int 0]⟩ 9 false] ready)) = true := by decide +kernel

/-- R129, the table after it: the values of SEQ along an emission. -/
theorem test_seq_at_cuts :
    let at' (n : Nat) := (run ((emitPixelScript 1 0 0 0).take n) ready).seq
    at' 0 = .idle ∧ at' 5 = .cell 0 7 0 ∧ at' 8 = .cell 0 7 1 ∧ at' 9 = .cell 0 7 2 ∧ at' 10 = .cell 0 7 3 ∧
      at' 11 = .cell 0 7 4 ∧ at' 12 = .cell 0 6 0 ∧ at' 698 = .cell 11 0 4 ∧ at' 699 = .latch ∧ at' 702 = .idle := by
  decide +kernel

/-- R132. -/
theorem test_terminate_during_cleanup :
    refusal (step (sending [.commandCut ⟨0x07, []⟩ 5 false] ready)) = some .terminateDuringCleanup ∧
    refusal (step (sending [.terminate true] ready)) = some .terminateDuringCleanup := by decide +kernel

/-! ### Witnesses: for each statement with hypotheses, states and operands that meet them -/

theorem ready_inv : Inv ready := by
  refine ⟨rfl, rfl, ?_, ?_, rfl, rfl, ?_, ?_⟩ <;> decide +kernel

/-- A driver in READY with one input waiting. -/
def sendingReady (input : Input) : State :=
  sending [input] ready

theorem witness_encodeThenDecode : encode .clear = some ⟨0x05, []⟩ ∧ encode (.setColor 1 2 3 5) =
    some ⟨0x03, [.int 1, .int 2, .int 3, .int 5]⟩ := ⟨rfl, rfl⟩

theorem witness_decodingGivesOnlyHostOperations : decode ⟨0x13, [.scalar 2, .scalar 3]⟩ = .ok (.policeLights 2 3) := rfl

theorem witness_unknownOpcode :
    let s := sendingReady (.command ⟨0x08, []⟩)
    (0x08 : Byte).toNat ∉ [0x00, 0x01, 0x02, 0x03, 0x04, 0x05, 0x06, 0x07, 0x10, 0x11, 0x12, 0x13, 0x14] ∧
      s.process = .running ∧ s.inputs = [.command ⟨0x08, []⟩] := by decide

theorem witness_omittedOperands :
    (0x14 : Byte).toNat ∈ [0x01, 0x02, 0x04, 0x10, 0x11, 0x12, 0x13, 0x14] ∧
    decode ⟨0x14, [.colour ⟨0, 0, 0⟩, .colour ⟨1, 1, 1⟩, .int 4, .scalar 1]⟩ =
      .ok (.fadeBetweenColors ⟨0, 0, 0⟩ ⟨1, 1, 1⟩ 4 1) ∧
    decode ⟨0x03, [.int 1, .int 2, .int 3, .omitted]⟩ = .ok (.setColor 1 2 3 0) := ⟨by decide, rfl, rfl⟩

/-- Each clause of ScaledChannelBounds at an end of its range. -/
theorem witness_scaledChannelBounds :
    scaleFn 10 (3 / 10) = 3 ∧ scaleFn (-5) (1 / 5) = -1 ∧ scaleFn (-5) 1 = -5 ∧ scaleFn (-5) 0 = 0 ∧ scaleFn 0 1 = 0 := by
  decide +kernel

/-- Each clause of ChannelByteIsScaledThenClamped at an end of its range. -/
theorem witness_channelByte :
    (channelByte 1 (-1)).toNat = 0 ∧ (channelByte 1 256).toNat = 255 ∧ (channelByte 1 255).toNat = 255 ∧
      (channelByte 1 0).toNat = 0 ∧ (channelByte (17 / 20) 300).toNat = 255 := by decide +kernel

/-- Each row of the table of R52 at both ends. -/
theorem witness_controlField :
    [(0 : Byte), 63, 64, 127, 128, 191, 192, 255].map controlField = [3, 3, 2, 2, 1, 1, 0, 0] := by decide

theorem witness_hexDigit :
    hexDigit '0' = some 0 ∧ hexDigit '9' = some 9 ∧ hexDigit 'a' = some 10 ∧ hexDigit 'F' = some 15 ∧
      hexDigit 'g' = none ∧ hexDigit '/' = none ∧ hexDigit ':' = none := by decide

/-- Each segment of WHEEL at both ends (TV S6, corrected). -/
theorem witness_wheel :
    [(0 : Int), 84, 85, 169, 170, 255].map wheel =
      [⟨0, 255, 0⟩, ⟨252, 3, 0⟩, ⟨255, 0, 0⟩, ⟨3, 0, 252⟩, ⟨0, 0, 255⟩, ⟨0, 255, 0⟩] := by decide

/-- The one hypothesis of SendBitSendsOneCell, SendByteSendsEightCells, LatchIsOnePause, EmitPixelSendsItsFrame,
ClearSendsTheBlackFrame, CleanupBlacksOutAndReleases and EffectDomains. -/
theorem witness_ready : ready.lifecycle = .ready := rfl

theorem witness_getStatus : ready.lifecycle = .ready ∧ Inv ready := ⟨rfl, ready_inv⟩

theorem witness_frameBits : ∃ p : Wires, p.clk = .low := ⟨⟨.high, .low⟩, rfl⟩

theorem witness_lineLevels :
    ready.dataLvl = .low ∧ ready.clkLvl = .low ∧ ready.seq = .idle ∧
      ∃ ms, planOf (.emitPixel 1 2 3) ready = .ok ms := ⟨rfl, rfl, rfl, _, rfl⟩

theorem witness_edgesHeld : (∀ p q x, Instr.clear ≠ .init p q x) ∧ ∃ t, exec .clear ready = .next t :=
  ⟨fun _ _ _ h => (by cases h), _, rfl⟩

/-- The four clauses of InitConstructsTheDriver: a second INIT, equal pins, success, and each cause of failure. -/
theorem witness_init :
    ready.lifecycle ≠ .unbuilt ∧
    (State.reset.lifecycle = .unbuilt ∧ (23 : Int) = 23) ∧
    (State.reset.lifecycle = .unbuilt ∧ (23 : Int) ≠ 24 ∧ State.reset.pinSetupOk = true ∧
      pinIn 23 State.reset.validPins = true ∧ pinIn 24 State.reset.validPins = true) ∧
    (noPins.lifecycle = .unbuilt ∧ (23 : Int) ≠ 24 ∧ noPins.pinSetupOk = false) ∧
    pinIn 24 (.only [23]) = false ∧ pinIn 23 (.allBut [23]) = false := by decide

theorem witness_initFailure :
    noPins.lifecycle = .unbuilt ∧ (23 : Int) ≠ 24 ∧ pinsGranted 23 24 noPins = false := by decide

theorem witness_onlyAFailedInitRaises :
    ∃ t, exec (.init 23 24 1) noPins = .next t ∧ t.reply = .raised .eInit := ⟨_, rfl, rfl⟩

/-- The clauses of SetBrightnessClampsAndStores; 0 and 1 fall under the last alone. -/
theorem witness_setBrightness :
    ready.lifecycle = .ready ∧ (-1 / 10 : Scalar) < 0 ∧ (1 : Scalar) < 3 / 2 ∧ (0 : Scalar) ≤ 0 ∧ (0 : Scalar) ≤ 1 ∧
      (1 : Scalar) ≤ 1 := by decide +kernel

theorem witness_setColor :
    ready.lifecycle = .ready ∧ ready.ledCount = 1 ∧ ((0 : Int) ≤ 0 ∧ 0 < ready.ledCount) ∧ (-1 : Int) < 0 ∧
      ready.ledCount ≤ 1 := by decide

theorem witness_setColorHex :
    ready.lifecycle = .ready ∧ ready.ledCount = 1 ∧ parseHex ['b', 'a', 'd'] = none ∧
      parseHex ['F', 'F', '0', '0', 'F', 'F'] = some ⟨255, 0, 255⟩ := by decide

theorem witness_repeatedCleanup :
    State.reset.lifecycle ≠ .ready ∧ released.lifecycle ≠ .ready ∧ (∃ t, exec .cleanup ready = .next t) ∧
      released.lifecycle = .released ∧ ∃ t, exec .cleanup released = .next t :=
  ⟨by decide, by decide, ⟨_, rfl⟩, rfl, _, rfl⟩

/-- DemoSequenceRunsThePalette, BreathingEffectRampsUpAndDown, PoliceLightsRunUntilTheDuration at time 0, the boundary. -/
theorem witness_times : ready.lifecycle = .ready ∧ (0 : Scalar) ≤ 0 ∧ (0 : Scalar) ≤ 1 / 4 := by decide +kernel

theorem witness_rainbow : ready.lifecycle = .ready ∧ ready.ledCount = 1 ∧ (0 : Scalar) ≤ 0 := by decide +kernel

theorem witness_fade : ready.lifecycle = .ready ∧ (1 : Int) ≤ 1 ∧ (0 : Scalar) ≤ 0 := by decide +kernel

theorem witness_effectsAreRestartable :
    isUntimedEffect (.demoSequence 0) = true ∧ ready.lifecycle = .ready ∧
      ∃ t, exec (.rainbow 0 0) ready = .next t ∧ isUntimedEffect (.rainbow 0 0) = true :=
  ⟨rfl, rfl, run [.reply .done] ready, rfl, rfl⟩

theorem witness_lifecycle :
    State.reset.lifecycle ≠ .ready ∧ (Instr.clear ≠ .cleanup) ∧ ready.lifecycle ≠ .unbuilt ∧
      (∃ t, exec .clear ready = .next t) ∧ (∃ t, step ready = .next t) ∧
      (sendingReady (.terminate false)).process = .running ∧
      (sendingReady (.terminate false)).inputs = [.terminate false] :=
  ⟨by decide, by decide, by decide, ⟨_, rfl⟩, ⟨_, rfl⟩, rfl, rfl⟩

theorem witness_terminate :
    (sendingReady (.terminate false)).process = .running ∧
    (sendingReady (.terminate false)).inputs = [.terminate false] ∧
    (sendingReady (.terminate false)).lifecycle = .ready ∧
    (sending [.terminate false] State.reset).inputs = [.terminate false] ∧
    (sending [.terminate false] State.reset).lifecycle ≠ .ready := by decide +kernel

theorem witness_terminateAbandons :
    let s := sendingReady (.commandCut ⟨0x05, []⟩ 100 false)
    s.process = .running ∧ s.inputs = .commandCut ⟨0x05, []⟩ 100 false :: [] ∧ decode ⟨0x05, []⟩ = .ok .clear ∧
      Instr.clear ≠ .cleanup ∧ s.lifecycle = .ready ∧ ∃ t, exec .clear { s with inputs := [] } = .next t :=
  ⟨rfl, rfl, rfl, by decide, rfl, _, rfl⟩

theorem witness_terminateCanCut :
    ready.process = .running ∧ ready.lifecycle = .ready ∧ decode ⟨0x06, []⟩ = .ok .getStatus ∧
      Instr.getStatus ≠ .cleanup ∧
      ∃ t es, exec .getStatus { ready with inputs := [] } = .next t ∧ t.trace = ready.trace ++ es ∧ 0 ≤ es.length :=
  ⟨rfl, rfl, rfl, by decide, _, [], rfl, rfl, Nat.le_refl 0⟩

theorem witness_terminateDuringCleanup :
    (sendingReady (.commandCut ⟨0x07, []⟩ 5 false)).process = .running ∧
    (sendingReady (.commandCut ⟨0x07, []⟩ 5 false)).inputs = [.commandCut ⟨0x07, []⟩ 5 false] ∧
    decode ⟨0x07, []⟩ = .ok .cleanup ∧
    (sendingReady (.commandCut ⟨0x05, []⟩ 5 true)).inputs = [.commandCut ⟨0x05, []⟩ 5 true] ∧
    decode ⟨0x05, []⟩ = .ok .clear ∧ (∃ t, exec .clear ready = .next t) ∧
    (sendingReady (.terminate true)).inputs = [.terminate true] ∧
    (sendingReady (.exit true)).inputs = [.exit true] := ⟨rfl, rfl, rfl, rfl, rfl, ⟨_, rfl⟩, rfl, rfl⟩

/-- TerminateDuringInit, and the three ways an INIT can be cut: before READY, at a failure, and after READY. -/
theorem witness_terminateDuringInit :
    let cut (n : Nat) (s : State) := sending [.commandCut ⟨0x00, []⟩ n false] s
    decode ⟨0x00, []⟩ = .ok (.init 23 24 1) ∧ (cut 4 State.reset).process = .running ∧
    (cut 4 State.reset).lifecycle = .unbuilt ∧ (23 : Int) ≠ 24 ∧ pinsGranted 23 24 State.reset = true ∧
    pinsGranted 23 24 noPins = false ∧
    nextIs (fun u => decide (u.lifecycle = .unbuilt ∧ u.trace = [.acquire 23 24])) (step (cut 4 State.reset)) = true ∧
    nextIs (fun u => decide (u.lifecycle = .failed)) (step (cut 1 noPins)) = true ∧
    nextIs (fun u => decide (u.lifecycle = .released)) (step (cut 5 State.reset)) = true := by
  refine ⟨rfl, rfl, rfl, by decide, rfl, rfl, ?_, ?_, ?_⟩ <;> decide +kernel

theorem witness_runEnds :
    (sendingReady (.exit false)).process = .running ∧ (sendingReady (.exit false)).inputs = [.exit false] ∧
      (leave ready).process = .exited := ⟨rfl, rfl, rfl⟩

/-- The five clauses of StepRunsTheDecodedOperation. -/
theorem witness_stepRuns :
    ready.process = .running ∧ (sendingReady (.command ⟨0x05, []⟩)).inputs = [.command ⟨0x05, []⟩] ∧
      decode ⟨0x05, []⟩ = .ok .clear ∧ decode ⟨0x08, []⟩ = .error (.unknownOpcode 0x08) ∧ ready.inputs = [] ∧
      (sendingReady (.commandCut ⟨0x08, []⟩ 3 false)).inputs = [.commandCut ⟨0x08, []⟩ 3 false] ∧
      exec .clear released = .refused .notReady :=
  ⟨rfl, rfl, rfl, rfl, rfl, rfl, rfl⟩

/-- EveryStepKeepsInvariant, TraceOnlyGrows, TheClockNeverRunsBack: a step that runs an operation. -/
theorem witness_step : Inv (sendingReady (.command ⟨0x05, []⟩)) ∧
    ∃ t, step (sendingReady (.command ⟨0x05, []⟩)) = .next t := ⟨ready_inv, _, rfl⟩

/-- OnlyInitAndSetBrightnessWriteBrightness, PinsAreImmutableAfterInit, OperationsLeaveHostAndPlatformAlone. -/
theorem witness_exec :
    (∃ t, exec .clear ready = .next t) ∧ (∀ p q x, Instr.clear ≠ .init p q x) ∧ (∀ x, Instr.clear ≠ .setBrightness x) ∧
      ready.lifecycle ≠ .unbuilt ∧ ∃ t, step ready = .next t :=
  ⟨⟨_, rfl⟩, fun _ _ _ h => (by cases h), fun _ h => (by cases h), by decide, _, rfl⟩

/-- OutcomesReachTheHostAsTheTableSays: each row of the table, at the edges of the ranges. -/
theorem witness_outcomes :
    (noPins.lifecycle = .unbuilt ∧ (23 : Int) ≠ 24 ∧ outcomeOf (.init 23 24 1) noPins = .eInit) ∧
      outcomeOf (.init 23 24 2) State.reset = .oClamp ∧ outcomeOf (.init 23 24 0) State.reset = .ok ∧
      outcomeOf (.setBrightness (-1 / 10)) ready = .oClamp ∧ outcomeOf (.setBrightness 1) ready = .ok ∧
      outcomeOf (.emitPixel 256 0 0) ready = .oClamp ∧ outcomeOf (.emitPixel 255 0 0) ready = .ok ∧
      outcomeOf (.emitPixel 0 (-1) 0) ready = .oClamp ∧ outcomeOf (.setColor 0 0 300 0) ready = .oClamp ∧
      outcomeOf (.fadeBetweenColors ⟨0, 0, 0⟩ ⟨0, 0, 512⟩ 1 0) ready = .oClamp ∧
      outcomeOf (.breathingEffect 1 2 3 1 0) ready = .ok ∧ (0 : Scalar) ≤ ready.brightness ∧ ready.brightness ≤ 1 ∧
      ready.lifecycle = .ready ∧ outcomeOf (.setColor 1 2 3 5) ready = .oIndex ∧
      outcomeOf (.setColor 1 2 3 0) ready ≠ .oIndex ∧ outcomeOf (.setColorHex ['b', 'a', 'd']) ready = .oIgnore := by
  decide +kernel

/-- ACellIsFiveEvents, AByteIsEightCellsHighBitFirst and LedCountIsHardwiredToOne. -/
theorem witness_formats :
    ready.lifecycle = .ready ∧ ready.clkLvl = .low ∧ ready.ledCount = 1 ∧
      nextIs (fun t => decide (t.lifecycle = .ready)) (exec (.init 23 24 1) State.reset) = true ∧
      (∃ t, step ready = .next t) ∧ ((0 : Int) ≤ 0 ∧ 0 < ready.ledCount) ∧ ready.ledCount ≤ 1 := by
  refine ⟨rfl, rfl, rfl, ?_, ⟨_, rfl⟩, ?_, ?_⟩ <;> decide +kernel

end Sys2Proof.Tests
end

/-! LED_COUNT (10_state.md R13): no micro-action writes it, so no list of micro-actions, no operation, no teardown and no
step does; and the two operations that read it in READY, GET_STATUS and SET_COLOR. -/

namespace Sys2Proof.Machine

/-! ### Nothing writes LED_COUNT -/

@[simp] theorem applyMicro_ledCount (m : Micro) (s : State) : (applyMicro s m).ledCount = s.ledCount := by
  cases m with
  | event e =>
    cases e with
    | w line v => cases line <;> rfl
    | _ => rfl
  | _ => rfl

@[simp] theorem run_ledCount (ms : List Micro) (s : State) : (run ms s).ledCount = s.ledCount := by
  suffices hf : ∀ s, (ms.foldl applyMicro s).ledCount = s.ledCount from hf s
  induction ms with
  | nil => exact fun _ => rfl
  | cons m ms ih => exact fun s => (ih (applyMicro s m)).trans (applyMicro_ledCount m s)

@[simp] theorem teardown_ledCount (s : State) : (teardown s).ledCount = s.ledCount :=
  run_ledCount (cleanupScript s) s

theorem exec_ledCount {i : Instr} {s t : State} (h : exec i s = .next t) : t.ledCount = s.ledCount := by
  obtain ⟨ms, -, rfl⟩ := exec_next h
  exact run_ledCount ms s

theorem step_ledCount {s t : State} (h : step s = .next t) : t.ledCount = s.ledCount := by
  obtain rfl | ⟨-, input, rest, -, hserved⟩ := step_next h
  · rfl
  · obtain ⟨c, i, -, -, hexec⟩ | ⟨c, n, i, ms, -, -, -, -, rfl⟩ | ⟨-, rfl⟩ := hserved
    · exact exec_ledCount (s := { s with inputs := rest }) hexec
    · simp
    · simp

/-! ### The operations that read it -/

theorem indexValid_of_in_range {index ledCount : Int} (h0 : 0 ≤ index) (h1 : index < ledCount) :
    indexValid index ledCount = true := by
  simp [indexValid, h0, h1]

theorem indexValid_of_ledCount_le {index ledCount : Int} (h : ledCount ≤ index) :
    indexValid index ledCount = false := by
  simp [indexValid, h]

/-- GET_STATUS in READY (R88). -/
theorem exec_getStatus_ready {s : State} (h : s.lifecycle = .ready) :
    exec .getStatus s = .next { s with reply := .status (snapshot s) } := by
  rw [exec_eq_perform, planOf, planGetStatus, whenReady_ready h, perform_ok, run_reply]

/-- SET_COLOR in READY (R84): its script, then the outcome of the index test as the answer. -/
theorem exec_setColor_ready (r g b index : Int) {s : State} (h : s.lifecycle = .ready) :
    exec (.setColor r g b index) s =
      .next { run (setColorScript s.ledCount s.brightness r g b index) s with
              reply := .bool (indexValid index s.ledCount) } := by
  rw [exec_eq_perform, planOf, planSetColor, whenReady_ready h, perform_ok, run_reply_last]

/-- An index that fails the test leaves SET_COLOR nothing to do (R84). -/
theorem setColorScript_invalid {index ledCount : Int} (h : indexValid index ledCount = false) (q : Scalar)
    (r g b : Int) : setColorScript ledCount q r g b index = [] := by
  rw [setColorScript, h, if_neg Bool.false_ne_true]

/-- Settles O58: LED_COUNT is 1 at reset and nothing writes it; its two readers answer by their equations in READY. -/
theorem ledCountIsHardwiredToOne : Obligations.LedCountIsHardwiredToOne := by
  refine ⟨?afterInit, fun i s t => exec_ledCount, ?afterStep, ?getStatus, ?setColor⟩
  case afterInit =>
    intro p q x t hexec _
    exact exec_ledCount hexec
  case afterStep =>
    intro s t hstep hone
    exact (step_ledCount hstep).trans hone
  case getStatus =>
    intro s hready
    exact ⟨_, snapshot s, exec_getStatus_ready hready, rfl, rfl⟩
  case setColor =>
    intro r g b index s hready
    refine ⟨_, exec_setColor_ready r g b index hready, fun h0 h1 => ?_, fun hle => ?_⟩
    · exact congrArg Reply.bool (indexValid_of_in_range h0 h1)
    · have hinvalid : indexValid index s.ledCount = false := indexValid_of_ledCount_le hle
      simp [hinvalid, setColorScript_invalid hinvalid]

end Sys2Proof.Machine

/-! The wire formats W-CELL and W-BYTE (30_encoding.md R46, R47) as SEND_BIT and SEND_BYTE produce them: the script of a cell
is its five events and nothing else, so the levels after each phase are those after a first part of the cell; and the cells
of a byte stand one after another, five events each. -/

namespace Sys2Proof.Machine

/-! ### The bit cell -/

/-- SEND_BIT in READY (R65). -/
theorem exec_sendBit_ready (b : Bool) {s : State} (h : s.lifecycle = .ready) :
    exec (.sendBit b) s = .next (run (sendBitScript b) s) := by
  rw [exec_eq_perform, planOf, planSendBit, whenReady_ready h, perform_ok]

@[simp] theorem eventsOf_map_event (es : List Event) : eventsOf (es.map .event) = es := by
  induction es with
  | nil => rfl
  | cons e es ih => rw [List.map_cons, eventsOf_event, ih]

theorem sendBitScript_eq_map (b : Bool) : sendBitScript b = (cellEvents b).map .event := rfl

/-- The lines inside a cell follow its events, phase by phase (R46, R17). -/
theorem wiresOf_run_take_sendBitScript (b : Bool) (n : Nat) (s : State) :
    wiresOf (run ((sendBitScript b).take n) s) = replay (wiresOf s) ((cellEvents b).take n) := by
  rw [wiresOf_run, sendBitScript_eq_map, ← List.map_take, eventsOf_map_event]

/-- The last two columns of the table after R46: the levels after phases 0 to 4 of a cell entered with the clock low. -/
theorem replay_take_cell (b : Bool) {p : Wires} (h : p.clk = .low) :
    [1, 2, 3, 4, 5].map (fun n : Nat => replay p ((cellEvents b).take n)) =
      [⟨levelOf b, .low⟩, ⟨levelOf b, .high⟩, ⟨levelOf b, .high⟩, ⟨levelOf b, .low⟩, ⟨levelOf b, .low⟩] := by
  simp [cellEvents, wiresAfter, h]

/-- Settles O56: the script of SEND_BIT is the five events of its cell, T_HOLD is the bound itself, and the lines follow the
events. -/
theorem aCellIsFiveEvents : Obligations.ACellIsFiveEvents := by
  intro b s hready
  refine ⟨⟨_, exec_sendBit_ready b hready, run_trace (sendBitScript b) s⟩, le_refl _, sendBitScript b,
    whenReady_ready hready _, rfl, fun hlow => ?levels⟩
  case levels =>
    simp only [wiresOf_run_take_sendBitScript]
    exact replay_take_cell b (p := wiresOf s) hlow

/-! ### The byte -/

/-- SEND_BYTE in READY (R66). -/
theorem exec_sendByte_ready (v : Byte) {s : State} (h : s.lifecycle = .ready) :
    exec (.sendByte v) s = .next (run (sendByteScript v) s) := by
  rw [exec_eq_perform, planOf, planSendByte, whenReady_ready h, perform_ok]

theorem drop_cell_append (b : Bool) (n : Nat) (es : List Event) : (cellEvents b ++ es).drop (n + 5) = es.drop n := rfl

/-- Among cells one after another, the events `5 * k` to `5 * k + 4` are cell `k`. -/
theorem take_drop_cells (f : Nat → Bool) (js : List Nat) (k : Nat) (hk : k < js.length) :
    ((js.flatMap fun j => cellEvents (f j)).drop (5 * k)).take 5 = cellEvents (f js[k]) := by
  induction js generalizing k with
  | nil => exact absurd hk (Nat.not_lt_zero k)
  | cons j js ih =>
    cases k with
    | zero => rfl
    | succ k =>
      rw [List.flatMap_cons, Nat.mul_succ, drop_cell_append]
      exact ih k (Nat.lt_of_succ_lt_succ hk)

theorem wireOrder_getElem : ∀ (k : Nat) (hk : k < wireOrder.length), wireOrder[k] = 7 - k := by decide

/-- Cell `k` of a byte carries its bit `7 - k` (R47). -/
theorem take_drop_byteEvents (v : Byte) {k : Nat} (hk : k < 8) :
    ((byteEvents v).drop (5 * k)).take 5 = cellEvents (v.getLsbD (7 - k)) := by
  rw [← wireOrder_getElem k hk]
  exact take_drop_cells v.getLsbD wireOrder k hk

/-- Settles O57: SEND_BYTE appends the events of the byte, which are eight cells in the order of R47. -/
theorem aByteIsEightCellsHighBitFirst : Obligations.AByteIsEightCellsHighBitFirst := by
  intro v s hready
  refine ⟨_, byteEvents v, exec_sendByte_ready v hready, ?trace, rfl, fun k hk => take_drop_byteEvents v hk⟩
  case trace => rw [run_trace, eventsOf_sendByteScript]

end Sys2Proof.Machine

/-! SET_BRIGHTNESS (41_driver_ops.md R82): the clamp on each side of the legal interval and in it, the whole operation in
READY as one equation, and the emission that follows it (40_encoder_ops.md R70). -/

namespace Sys2Proof.Machine

/-! ### The clamp of a brightness operand -/

theorem clampBrightness_of_neg {x : Scalar} (h : x < 0) : clampBrightness x = 0 := if_pos h

theorem clampBrightness_of_one_lt {x : Scalar} (h : 1 < x) : clampBrightness x = 1 := by
  have h0 : ¬ x < 0 := (zero_lt_one.trans h).not_gt
  rw [clampBrightness, clampScalar, if_neg h0, if_pos h]

theorem clampBrightness_of_legal {x : Scalar} (h0 : 0 ≤ x) (h1 : x ≤ 1) : clampBrightness x = x := by
  rw [clampBrightness, clampScalar, if_neg h0.not_gt, if_neg h1.not_gt]

/-- The clamp written with `max` and `min` (R7). -/
theorem clampBrightness_eq_max_min (x : Scalar) : clampBrightness x = max 0 (min 1 x) := by
  obtain hneg | h0 := lt_or_ge x 0
  · rw [clampBrightness_of_neg hneg, min_eq_right (hneg.trans zero_lt_one).le, max_eq_left hneg.le]
  obtain hone | h1 := lt_or_ge 1 x
  · rw [clampBrightness_of_one_lt hone, min_eq_left hone.le, max_eq_right zero_le_one]
  · rw [clampBrightness_of_legal h0 h1, min_eq_right h1, max_eq_right h0]

/-! ### The operation, and the emission after it -/

/-- SET_BRIGHTNESS in READY (R82). -/
theorem exec_setBrightness_ready (x : Scalar) {s : State} (h : s.lifecycle = .ready) :
    exec (.setBrightness x) s =
      .next { s with brightness := clampBrightness x, reply := .scalar (clampBrightness x) } := by
  rw [exec_eq_perform, planOf, planSetBrightness, whenReady_ready h, perform_ok, run_cons, run_setBrightness, run_reply]

/-- EMIT_PIXEL in READY (R70). -/
theorem exec_emitPixel_ready (r g b : Int) {s : State} (h : s.lifecycle = .ready) :
    exec (.emitPixel r g b) s = .next { emitted s.brightness ⟨r, g, b⟩ s with reply := .done } := by
  rw [exec_eq_perform, planOf, planEmitPixel, whenReady_ready h, perform_ok, run_reply_last, run_emitPixelScript]

/-- Settles O25: the operation's equation in READY, read at each value of the clamp; the state it leaves is still in READY,
so an emission goes on from there at the stored value. -/
theorem setBrightnessClampsAndStores : Obligations.SetBrightnessClampsAndStores := by
  intro x s hready
  have hexec := exec_setBrightness_ready x hready
  refine ⟨fun hneg => ?below, fun hone => ?above, fun h0 h1 => ?legal, fun r g b => ?emission⟩
  case below => rw [hexec, clampBrightness_of_neg hneg]
  case above => rw [hexec, clampBrightness_of_one_lt hone]
  case legal => rw [hexec, clampBrightness_of_legal h0 h1]
  case emission =>
    refine ⟨_, _, hexec, exec_emitPixel_ready r g b hready, ?_⟩
    rw [← clampBrightness_eq_max_min]
    rfl

end Sys2Proof.Machine

/-! The command port (30_encoding.md R54 to R57): the command `encode` writes for an operation is read back as it; a command
that decodes agrees with that one in its opcode and in every operand that has no default. -/

namespace Sys2Proof

/-- Settles O1: of the operations that have a command, each is read back from it by computation. -/
theorem encodeThenDecodeGivesTheInstruction : Obligations.EncodeThenDecodeGivesTheInstruction := by
  intro i c h
  cases i with
  | sendBit | sendByte | latch => cases h
  | _ => cases h; rfl

/-! ### What a command that decodes has been -/

/-- How many operands of an opcode have no default; they are its first ones (R54). -/
def requiredCount (op : Byte) : Nat :=
  if op = 0x00 then 0 else if op = 0x03 then 3 else operandCount op

/-- The command that `encode` writes for `i` has this opcode and these required operands. -/
def agreesWithEncoding (op : Byte) (vs : List Value) (i : Instr) : Prop :=
  ∃ c, encode i = some c ∧ c.opcode = op ∧ vs.take (requiredCount op) = c.operands.take (requiredCount op)

theorem agreesWithEncoding_of_toNat {op : Byte} {vs : List Value} {i : Instr} {c : Command} (hc : encode i = some c)
    (hop : op.toNat = c.opcode.toNat)
    (ht : vs.take (requiredCount c.opcode) = c.operands.take (requiredCount c.opcode)) :
    agreesWithEncoding op vs i := by
  obtain rfl : op = c.opcode := BitVec.eq_of_toNat_eq hop
  exact ⟨c, hc, rfl, ht⟩

/-- Every row of the table of R56 reads its required operands in order, each of its own type. -/
theorem agreesWithEncoding_of_decodeOperation {op : Byte} {vs : List Value} {i : Instr}
    (h : decodeOperation op vs = .ok i) : agreesWithEncoding op vs i := by
  unfold decodeOperation at h
  split at h
  case h_1 hop =>
    obtain ⟨p, -, h⟩ := except_bind_ok h
    obtain ⟨q, -, h⟩ := except_bind_ok h
    obtain ⟨x, -, h⟩ := except_bind_ok h
    cases h
    exact agreesWithEncoding_of_toNat rfl hop rfl
  case h_2 hop =>
    obtain ⟨r, hr, h⟩ := except_bind_ok h
    obtain ⟨g, hg, h⟩ := except_bind_ok h
    obtain ⟨b, hb, h⟩ := except_bind_ok h
    cases h
    refine agreesWithEncoding_of_toNat rfl hop ?_
    simp [requiredCount, operandCount, List.take_add_one, intOperand_required hr, intOperand_required hg,
      intOperand_required hb]
  case h_3 hop =>
    obtain ⟨x, hx, h⟩ := except_bind_ok h
    cases h
    refine agreesWithEncoding_of_toNat rfl hop ?_
    simp [requiredCount, operandCount, List.take_add_one, scalarOperand_required hx]
  case h_4 hop =>
    obtain ⟨r, hr, h⟩ := except_bind_ok h
    obtain ⟨g, hg, h⟩ := except_bind_ok h
    obtain ⟨b, hb, h⟩ := except_bind_ok h
    obtain ⟨index, -, h⟩ := except_bind_ok h
    cases h
    refine agreesWithEncoding_of_toNat rfl hop ?_
    simp [requiredCount, List.take_add_one, intOperand_required hr, intOperand_required hg, intOperand_required hb]
  case h_5 hop =>
    obtain ⟨s, hs, h⟩ := except_bind_ok h
    cases h
    refine agreesWithEncoding_of_toNat rfl hop ?_
    simp [requiredCount, operandCount, List.take_add_one, strOperand_required hs]
  case h_6 hop | h_7 hop | h_8 hop =>
    cases h
    exact agreesWithEncoding_of_toNat rfl hop rfl
  case h_9 hop =>
    obtain ⟨delay, hd, h⟩ := except_bind_ok h
    cases h
    refine agreesWithEncoding_of_toNat rfl hop ?_
    simp [requiredCount, operandCount, List.take_add_one, scalarOperand_required hd]
  case h_10 hop =>
    obtain ⟨r, hr, h⟩ := except_bind_ok h
    obtain ⟨g, hg, h⟩ := except_bind_ok h
    obtain ⟨b, hb, h⟩ := except_bind_ok h
    obtain ⟨cycles, hc, h⟩ := except_bind_ok h
    obtain ⟨duration, hd, h⟩ := except_bind_ok h
    cases h
    refine agreesWithEncoding_of_toNat rfl hop ?_
    simp [requiredCount, operandCount, List.take_add_one, intOperand_required hr, intOperand_required hg,
      intOperand_required hb, intOperand_required hc, scalarOperand_required hd]
  case h_11 hop =>
    obtain ⟨cycles, hc, h⟩ := except_bind_ok h
    obtain ⟨speed, hs, h⟩ := except_bind_ok h
    cases h
    refine agreesWithEncoding_of_toNat rfl hop ?_
    simp [requiredCount, operandCount, List.take_add_one, intOperand_required hc, scalarOperand_required hs]
  case h_12 hop =>
    obtain ⟨duration, hd, h⟩ := except_bind_ok h
    obtain ⟨speed, hs, h⟩ := except_bind_ok h
    cases h
    refine agreesWithEncoding_of_toNat rfl hop ?_
    simp [requiredCount, operandCount, List.take_add_one, scalarOperand_required hd, scalarOperand_required hs]
  case h_13 hop =>
    obtain ⟨c1, h1, h⟩ := except_bind_ok h
    obtain ⟨c2, h2, h⟩ := except_bind_ok h
    obtain ⟨steps, hs, h⟩ := except_bind_ok h
    obtain ⟨duration, hd, h⟩ := except_bind_ok h
    cases h
    refine agreesWithEncoding_of_toNat rfl hop ?_
    simp [requiredCount, operandCount, List.take_add_one, colourOperand_required h1, colourOperand_required h2,
      intOperand_required hs, scalarOperand_required hd]
  case h_14 => cases h

/-- The statement of Laws/PerInstr, for every operation. -/
theorem commandShape (i : Instr) : Laws.CommandShape.Statement i := by
  cases i with
  | sendBit b => exact Laws.CommandShape.sendBit b
  | sendByte v => exact Laws.CommandShape.sendByte v
  | latch => exact Laws.CommandShape.latch
  | init p q x => exact Laws.CommandShape.init p q x
  | emitPixel r g b => exact Laws.CommandShape.emitPixel r g b
  | setBrightness x => exact Laws.CommandShape.setBrightness x
  | setColor r g b index => exact Laws.CommandShape.setColor r g b index
  | setColorHex str => exact Laws.CommandShape.setColorHex str
  | clear => exact Laws.CommandShape.clear
  | getStatus => exact Laws.CommandShape.getStatus
  | cleanup => exact Laws.CommandShape.cleanup
  | demoSequence delay => exact Laws.CommandShape.demoSequence delay
  | breathingEffect r g b cycles duration => exact Laws.CommandShape.breathingEffect r g b cycles duration
  | rainbow cycles speed => exact Laws.CommandShape.rainbow cycles speed
  | policeLights duration speed => exact Laws.CommandShape.policeLights duration speed
  | fadeBetweenColors c1 c2 steps duration => exact Laws.CommandShape.fadeBetweenColors c1 c2 steps duration

theorem hostIssued_of_encode {i : Instr} {c : Command} (h : encode i = some c) : i.hostIssued = true := by
  obtain ⟨hissued, -⟩ := commandShape i
  rw [← hissued, h, Option.isSome_some]

theorem hostIssued_of_decode {c : Command} {i : Instr} (h : decode c = .ok i) : i.hostIssued = true := by
  obtain ⟨c', hc', -, -⟩ := agreesWithEncoding_of_decodeOperation (decode_ok h).1
  exact hostIssued_of_encode hc'

/-- Settles O2: the row of the table that has read the command gives the opcode of the operation. -/
theorem decodingGivesOnlyHostOperations : Obligations.DecodingGivesOnlyHostOperations := by
  intro c i h
  obtain ⟨c', hc', hop, -⟩ := agreesWithEncoding_of_decodeOperation (decode_ok h).1
  exact ⟨hostIssued_of_encode hc', c', hc', hop⟩

/-! ### Operands that are left out -/

theorem omitted_not_mem_encode {i : Instr} {c : Command} (h : encode i = some c) : Value.omitted ∉ c.operands := by
  cases i with
  | sendBit | sendByte | latch => cases h
  | _ => cases h; simp

theorem operandCount_of_encode {i : Instr} {c : Command} (h : encode i = some c) :
    c.operands.length = operandCount c.opcode := by
  obtain ⟨-, hcount⟩ := commandShape i
  exact hcount c h

/-- The required operands of a command that decodes are all there, and none of them is an explicit omission. -/
theorem required_of_decode {op : Byte} {vs : List Value} {i : Instr} (h : decode ⟨op, vs⟩ = .ok i)
    (hle : requiredCount op ≤ operandCount op) :
    requiredCount op ≤ vs.length ∧ vs.length ≤ operandCount op ∧ Value.omitted ∉ vs.take (requiredCount op) := by
  obtain ⟨hdecode, hlength⟩ := decode_ok h
  obtain ⟨c, hc, rfl, htake⟩ := agreesWithEncoding_of_decodeOperation hdecode
  refine ⟨?_, hlength, fun hmem => omitted_not_mem_encode hc (List.mem_of_mem_take (htake ▸ hmem))⟩
  have hlen := congrArg List.length htake
  rw [List.length_take, List.length_take, operandCount_of_encode hc] at hlen
  dsimp only at *
  omega

theorem requiredCount_of_no_default {op : Byte}
    (h : op.toNat ∈ [0x01, 0x02, 0x04, 0x10, 0x11, 0x12, 0x13, 0x14]) : requiredCount op = operandCount op := by
  have h0 : op ≠ 0x00 := by rintro rfl; simp at h
  have h3 : op ≠ 0x03 := by rintro rfl; simp at h
  rw [requiredCount, if_neg h0, if_neg h3]

theorem intOperand_default {vs : List Value} {k : Nat} {n : Option Int} (d : Int)
    (h : vs[k]? = some (n.elim .omitted .int)) : intOperand vs k (some d) = .ok (n.getD d) := by
  cases n <;> simp [intOperand, h]

theorem scalarOperand_default {vs : List Value} {k : Nat} {q : Option Scalar} (d : Scalar)
    (h : vs[k]? = some (q.elim .omitted .scalar)) : scalarOperand vs k (some d) = .ok (q.getD d) := by
  cases q <;> simp [scalarOperand, h]

/-- The converse of `decode_ok`. -/
theorem decode_of_decodeOperation {c : Command} {i : Instr} (h : decodeOperation c.opcode c.operands = .ok i)
    (hl : c.operands.length ≤ operandCount c.opcode) : decode c = .ok i := by
  rw [decode, h]
  exact if_neg (Nat.not_lt.2 hl)

theorem decode_init {vs : List Value} {p q : Int} {x : Scalar} (hp : intOperand vs 0 (some 23) = .ok p)
    (hq : intOperand vs 1 (some 24) = .ok q) (hx : scalarOperand vs 2 (some 1) = .ok x) (hl : vs.length ≤ 3) :
    decode ⟨0x00, vs⟩ = .ok (.init p q x) := by
  have hrow : decodeOperation 0x00 vs =
      (intOperand vs 0 (some 23) >>= fun p' => intOperand vs 1 (some 24) >>= fun q' =>
        scalarOperand vs 2 (some 1) >>= fun x' => .ok (.init p' q' x')) := rfl
  refine decode_of_decodeOperation (c := ⟨0x00, vs⟩) (hrow.trans ?_) hl
  rw [hp, hq, hx]
  rfl

/-- Settles O4: the defaults are computed; that nothing else may be left out is `required_of_decode`. -/
theorem omittedOperandsTakeTheirDefaults : Obligations.OmittedOperandsTakeTheirDefaults := by
  refine ⟨fun p q x => ?_, fun p q => ?_, fun p => ?_, rfl, fun r g b n => ?_, fun _ _ _ => rfl, fun vs i h => ?_,
    fun op vs i hop h => ?_⟩
  · exact decode_init (intOperand_default 23 rfl) (intOperand_default 24 rfl) (scalarOperand_default 1 rfl) (le_refl 3)
  · exact decode_init (intOperand_default 23 rfl) (intOperand_default 24 rfl) rfl (by decide : 2 ≤ 3)
  · exact decode_init (intOperand_default 23 rfl) rfl rfl (by decide : 1 ≤ 3)
  · cases n <;> rfl
  · exact required_of_decode h (by decide)
  · have hall := requiredCount_of_no_default hop
    obtain ⟨hge, hle, hmem⟩ := required_of_decode h hall.le
    have hlength : vs.length = requiredCount op := by omega
    exact ⟨hlength.trans hall, by rwa [← hlength, List.take_length] at hmem⟩

/-- Settles O5: by computation. -/
theorem commandsOfTheSpecDecode : Obligations.CommandsOfTheSpecDecode :=
  ⟨rfl, rfl, rfl, rfl, rfl⟩

/-! ### Opcodes outside the table -/

theorem decode_unknown {op : Byte} (vs : List Value)
    (h : op.toNat ∉ [0x00, 0x01, 0x02, 0x03, 0x04, 0x05, 0x06, 0x07, 0x10, 0x11, 0x12, 0x13, 0x14]) :
    decode ⟨op, vs⟩ = .error (.unknownOpcode op) := by
  have hop : decodeOperation op vs = .error (.unknownOpcode op) := by
    unfold decodeOperation
    split
    case h_14 => rfl
    all_goals simp_all
  simp only [decode, hop]
  rfl

/-- Settles O3: a running machine serves the command, and serving decodes it before anything else is looked at. -/
theorem unknownOpcodeIsRefused : Obligations.UnknownOpcodeIsRefused := by
  intro op vs rest s hop hrunning hinputs
  rw [Machine.step_input hrunning hinputs, Machine.serve, decode_unknown vs hop]
  rfl

end Sys2Proof

/-! What every operation, every cut and every teardown keeps (10_state.md R11 to R17, R21, R25): the shape of a plan, said once
by operation; what a list of micro-actions cannot write; and from the two the invariants of the step. -/

namespace Sys2Proof.Machine

/-! ### The shape of a plan -/

/-- What the plan of an operation can be, by the operation. -/
inductive PlanShape (s : State) : Instr → List Micro → Prop where
  /-- An operation that runs in READY and writes no control register. -/
  | emission {i : Instr} {ms : List Micro} (ready : s.lifecycle = .ready) (keeps : ms.all keepsControl = true)
      (notInit : ∀ p q x, i ≠ .init p q x) (notSetBrightness : ∀ x, i ≠ .setBrightness x) (notCleanup : i ≠ .cleanup) :
      PlanShape s i ms
  | setBrightness (x : Scalar) (ready : s.lifecycle = .ready) :
      PlanShape s (.setBrightness x) [.setBrightness (clampBrightness x), .reply (.scalar (clampBrightness x))]
  | init {p q : Int} (x : Scalar) (unbuilt : s.lifecycle = .unbuilt) (differ : p ≠ q)
      (granted : pinsGranted p q s = true) : PlanShape s (.init p q x) (initScript p q x)
  | initFails {p q : Int} (x : Scalar) (unbuilt : s.lifecycle = .unbuilt) (differ : p ≠ q)
      (notGranted : pinsGranted p q s = false) : PlanShape s (.init p q x) [.raiseEInit]
  | cleanup : PlanShape s .cleanup (cleanupScript s ++ [.reply .done])

theorem planShape_of_planOf {i : Instr} {s : State} {ms : List Micro} (h : planOf i s = .ok ms) : PlanShape s i ms := by
  by_cases hinit : ∃ p q x, i = .init p q x
  · obtain ⟨p, q, x, rfl⟩ := hinit
    obtain ⟨hunbuilt, hdiffer, ⟨hgranted, rfl⟩ | ⟨hgranted, rfl⟩⟩ := planInit_ok h
    · exact .init x hunbuilt hdiffer hgranted
    · exact .initFails x hunbuilt hdiffer hgranted
  by_cases hset : ∃ x, i = .setBrightness x
  · obtain ⟨x, rfl⟩ := hset
    obtain ⟨hready, he⟩ := whenReady_ok h
    cases he
    exact .setBrightness x hready
  by_cases hcleanup : i = .cleanup
  · subst hcleanup
    cases h
    exact .cleanup
  · push Not at hinit hset
    obtain ⟨hready, hkeeps⟩ := planOf_keepsControl h hinit hset hcleanup
    exact .emission hready hkeeps hinit hset hcleanup

/-! ### What no list of micro-actions writes -/

/-- The hardwired registers, the platform's side, the host's list and the process are the same in both states. -/
def sameEnvironment (s t : State) : Prop :=
  t.ledCount = s.ledCount ∧ t.mode = s.mode ∧ t.validPins = s.validPins ∧ t.pinSetupOk = s.pinSetupOk ∧
  t.inputs = s.inputs ∧ t.process = s.process

/-- A relation that every micro-action of a list keeps, from any state, holds over the whole list. -/
theorem foldl_applyMicro_rel {R : State → State → Prop} (hrefl : ∀ s, R s s) (htrans : ∀ s t u, R s t → R t u → R s u)
    {ms : List Micro} (h : ∀ m ∈ ms, ∀ s, R s (applyMicro s m)) (s : State) : R s (ms.foldl applyMicro s) := by
  induction ms generalizing s with
  | nil => exact hrefl s
  | cons m ms ih =>
    exact htrans _ _ _ (h m List.mem_cons_self s) (ih (fun m' hm' => h m' (List.mem_cons_of_mem m hm')) (applyMicro s m))

theorem applyMicro_sameEnvironment (m : Micro) (s : State) : sameEnvironment s (applyMicro s m) := by
  cases m with
  | event e =>
    cases e with
    | w line v => cases line <;> simp [sameEnvironment]
    | _ => simp [sameEnvironment]
  | _ => simp [sameEnvironment]

theorem run_sameEnvironment (ms : List Micro) (s : State) : sameEnvironment s (run ms s) := by
  have hrefl (s : State) : sameEnvironment s s := by simp [sameEnvironment]
  have htrans (s t u : State) (h : sameEnvironment s t) (h' : sameEnvironment t u) : sameEnvironment s u := by
    simp_all [sameEnvironment]
  exact foldl_applyMicro_rel hrefl htrans (fun m _ s => applyMicro_sameEnvironment m s) s

/-- Settles O53: an operation runs its plan, and no micro-action writes any of these. -/
theorem operationsLeaveHostAndPlatformAlone : Obligations.OperationsLeaveHostAndPlatformAlone := by
  intro i s t h
  obtain ⟨ms, -, rfl⟩ := exec_next h
  exact run_sameEnvironment ms s

@[simp] theorem run_mode (ms : List Micro) (s : State) : (run ms s).mode = s.mode := by
  obtain ⟨-, hmode, -⟩ := run_sameEnvironment ms s
  exact hmode

/-! ### The teardown and the cut -/

theorem run_cleanupScript_keeps (s : State) :
    let t := run (cleanupScript s) s
    t.dataPin = s.dataPin ∧ t.clockPin = s.clockPin ∧ t.brightness = s.brightness := by
  by_cases h : s.lifecycle = .ready
  · rw [run_cleanupScript s h]; exact ⟨rfl, rfl, rfl⟩
  · rw [run_cleanupScript_not_ready s h]; exact ⟨rfl, rfl, rfl⟩

@[simp] theorem teardown_dataPin (s : State) : (teardown s).dataPin = s.dataPin := by
  obtain ⟨hp, -, -⟩ := run_cleanupScript_keeps s
  exact hp

@[simp] theorem teardown_clockPin (s : State) : (teardown s).clockPin = s.clockPin := by
  obtain ⟨-, hq, -⟩ := run_cleanupScript_keeps s
  exact hq

@[simp] theorem run_cleanupScript_brightness (s : State) : (run (cleanupScript s) s).brightness = s.brightness := by
  obtain ⟨-, -, hb⟩ := run_cleanupScript_keeps s
  exact hb

@[simp] theorem teardown_brightness (s : State) : (teardown s).brightness = s.brightness :=
  run_cleanupScript_brightness s

@[simp] theorem teardown_trace (s : State) : (teardown s).trace = s.trace ++ eventsOf (cleanupScript s) := rfl

/-- SET_BRIGHTNESS, cut anywhere: the register is the old one or the clamped operand. -/
theorem run_take_setBrightness (x : Scalar) (n : Nat) (s : State) :
    ∃ y r, run ([Micro.setBrightness (clampBrightness x), .reply (.scalar (clampBrightness x))].take n) s =
        { s with brightness := y, reply := r } ∧ (y = s.brightness ∨ y = clampBrightness x) := by
  match n with
  | 0 => exact ⟨s.brightness, s.reply, run_nil s, .inl rfl⟩
  | 1 => exact ⟨clampBrightness x, s.reply, run_setBrightness _ s, .inr rfl⟩
  | n + 2 =>
    refine ⟨clampBrightness x, .scalar (clampBrightness x), ?_, .inr rfl⟩
    rw [List.take_of_length_le (by simp), run_cons, run_setBrightness, run_reply]

/-- An operation cut in READY: READY still, and the pins too; BRIGHTNESS is the old one or the one that the whole operation
leaves. -/
theorem run_take_of_ready {i : Instr} {s : State} {ms : List Micro} (h : planOf i s = .ok ms) (hi : i ≠ .cleanup)
    (hready : s.lifecycle = .ready) (n : Nat) :
    let u := run (ms.take n) s
    u.lifecycle = .ready ∧ u.dataPin = s.dataPin ∧ u.clockPin = s.clockPin ∧
      (u.brightness = s.brightness ∨ u.brightness = (run ms s).brightness) := by
  cases planShape_of_planOf h with
  | emission _ hkeeps =>
    obtain ⟨hp, hq, -, hb, -, hl, -⟩ := run_keepsControl _ (keepsControl_take hkeeps n) s
    exact ⟨hl.trans hready, hp, hq, .inl hb⟩
  | setBrightness x =>
    obtain ⟨y, r, hrun, hy⟩ := run_take_setBrightness x n s
    rw [hrun]
    exact ⟨hready, rfl, rfl, hy⟩
  | init x hunbuilt => simp [hready] at hunbuilt
  | initFails x hunbuilt => simp [hready] at hunbuilt
  | cleanup => exact absurd rfl hi

/-! ### TRACE, BRIGHTNESS and the pins -/

/-- Settles O50: an operation, a cut and the hook are runs, and a run appends its events. -/
theorem traceOnlyGrows : Obligations.TraceOnlyGrows := by
  intro s t h
  obtain rfl | ⟨-, input, rest, -, hserved⟩ := step_next h
  · exact List.prefix_refl _
  obtain ⟨c, i, -, -, hexec⟩ | ⟨c, n, i, ms, -, -, -, -, rfl⟩ | ⟨-, rfl⟩ := hserved
  · obtain ⟨ms, -, rfl⟩ := exec_next hexec
    exact List.prefix_append _ _
  · rw [teardown_trace, run_trace, List.append_assoc]
    exact List.prefix_append _ _
  · exact List.prefix_append _ _

/-- Settles O51: by the shape of the plan. -/
theorem onlyInitAndSetBrightnessWriteBrightness : Obligations.OnlyInitAndSetBrightnessWriteBrightness := by
  intro i s t h hinit hset
  obtain ⟨ms, hplan, rfl⟩ := exec_next h
  cases planShape_of_planOf hplan with
  | emission _ hkeeps =>
    obtain ⟨-, -, -, hb, -⟩ := run_keepsControl ms hkeeps s
    exact hb
  | setBrightness x => exact absurd rfl (hset x)
  | init x | initFails x => exact absurd rfl (hinit _ _ x)
  | cleanup => rw [run_reply_last]; exact run_cleanupScript_brightness s

theorem exec_keeps_pins {i : Instr} {s t : State} (h : exec i s = .next t) (hinit : ∀ p q x, i ≠ .init p q x) :
    t.dataPin = s.dataPin ∧ t.clockPin = s.clockPin := by
  obtain ⟨ms, hplan, rfl⟩ := exec_next h
  cases planShape_of_planOf hplan with
  | emission _ hkeeps =>
    obtain ⟨hp, hq, -⟩ := run_keepsControl ms hkeeps s
    exact ⟨hp, hq⟩
  | setBrightness x => exact ⟨rfl, rfl⟩
  | init x | initFails x => exact absurd rfl (hinit _ _ x)
  | cleanup =>
    obtain ⟨hp, hq, -⟩ := run_cleanupScript_keeps s
    rw [run_reply_last]
    exact ⟨hp, hq⟩

/-- An operation other than CLEANUP that is admitted outside UNBUILT is admitted in READY. -/
theorem ready_of_planOf {i : Instr} {s : State} {ms : List Micro} (h : planOf i s = .ok ms) (hi : i ≠ .cleanup)
    (hbuilt : s.lifecycle ≠ .unbuilt) : s.lifecycle = .ready := by
  cases planShape_of_planOf h with
  | emission hready | setBrightness _ hready => exact hready
  | init x hunbuilt | initFails x hunbuilt => exact absurd hunbuilt hbuilt
  | cleanup => exact absurd rfl hi

/-- Settles O52: INIT is admitted in UNBUILT alone, and nothing else writes the pins. -/
theorem pinsAreImmutableAfterInit : Obligations.PinsAreImmutableAfterInit := by
  refine ⟨fun i s t => exec_keeps_pins, fun s t h hbuilt => ?_⟩
  obtain rfl | ⟨-, input, rest, -, hserved⟩ := step_next h
  · exact ⟨rfl, rfl⟩
  obtain ⟨c, i, -, -, hexec⟩ | ⟨c, n, i, ms, -, -, hi, hplan, rfl⟩ | ⟨-, rfl⟩ := hserved
  · refine exec_keeps_pins (s := { s with inputs := rest }) hexec fun p q x hi => ?_
    obtain ⟨ms, hplan, -⟩ := exec_next hexec
    rw [hi] at hplan
    obtain ⟨hunbuilt, -⟩ := planInit_ok hplan
    exact hbuilt hunbuilt
  · have hready := ready_of_planOf hplan hi hbuilt
    obtain ⟨-, hp, hq, -⟩ := run_take_of_ready hplan hi hready n
    rw [teardown_dataPin, teardown_clockPin]
    exact ⟨hp, hq⟩
  · simp

/-! ### INIT, cut -/

/-- INIT cut before LIFECYCLE is READY: at most Acquire has happened, and the lines and SEQ are as they were. -/
theorem run_take_initScript_before (p q : Int) (x : Scalar) {n : Nat} (hn : n < 5) (s : State) :
    let u := run ((initScript p q x).take n) s
    u.lifecycle = s.lifecycle ∧ u.seq = s.seq ∧ wiresOf u = wiresOf s ∧ u.trace = s.trace ++ [Event.acquire p q].take n ∧
      (u.brightness = s.brightness ∨ u.brightness = clampBrightness x) := by
  match n with
  | 0 => exact ⟨rfl, rfl, rfl, rfl, .inl rfl⟩
  | 1 | 2 | 3 => exact ⟨rfl, rfl, rfl, rfl, .inl rfl⟩
  | 4 => exact ⟨rfl, rfl, rfl, rfl, .inr rfl⟩
  | n + 5 => omega

/-- INIT whose pin set-up fails, cut (R81): either nothing has happened or all of it. -/
theorem run_take_raiseEInit (n : Nat) (s : State) :
    run ([Micro.raiseEInit].take n) s = if n = 0 then s else takeEInit s := by
  cases n with
  | zero => exact run_nil s
  | succ n => rw [List.take_of_length_le (by simp), run_raiseEInit, if_neg (Nat.succ_ne_zero n)]

/-- The part of INIT after LIFECYCLE is READY (R80). -/
def initFrameScript (q : Scalar) : List Micro :=
  [.event (.w .data false), .event (.w .clk false)] ++ emitPixelScript q 0 0 0 ++ [.reply .done]

theorem initFrameScript_keepsControl (q : Scalar) : (initFrameScript q).all keepsControl = true := by
  rw [initFrameScript, List.all_append, List.all_append, emitPixelScript_keepsControl]
  rfl

theorem eventsOf_initFrameScript (q : Scalar) :
    eventsOf (initFrameScript q) = .w .data false :: .w .clk false :: frameEvents blackBytes := by
  have hf : frameOf q ⟨0, 0, 0⟩ = blackBytes := frameOf_black q
  rw [initFrameScript, eventsOf_append, eventsOf_append, eventsOf_emitPixelScript, hf]
  exact List.append_nil _

/-- INIT cut once LIFECYCLE is READY: its registers are written, and some first part of the forcing writes and the frame has
happened. -/
theorem run_take_initScript_ready (p q : Int) (x : Scalar) (n : Nat) (s : State) :
    let u := run ((initScript p q x).take (n + 5)) s
    u.lifecycle = .ready ∧ u.dataPin = p ∧ u.clockPin = q ∧ u.brightness = clampBrightness x ∧
      u.trace = s.trace ++ .acquire p q :: eventsOf ((initFrameScript (clampBrightness x)).take n) := by
  rw [initScript_take, run_append, ← initFrameScript]
  obtain ⟨hp, hq, -, hb, -, hl, -⟩ :=
    run_keepsControl _ (keepsControl_take (initFrameScript_keepsControl (clampBrightness x)) n)
      (run [Micro.event (.acquire p q), .setDataPin p, .setClockPin q, .setBrightness (clampBrightness x),
        .setLifecycle .ready] s)
  refine ⟨hl, hp, hq, hb, ?_⟩
  rw [run_trace, run_trace, List.append_assoc]
  rfl

/-! ### The invariant -/

/-- The lines stand as TRACE left them (R17). -/
def linesFollowTrace (s : State) : Prop :=
  replay ⟨.x, .x⟩ s.trace = wiresOf s

theorem linesFollowTrace_run {s : State} (h : linesFollowTrace s) (ms : List Micro) : linesFollowTrace (run ms s) := by
  rw [linesFollowTrace, run_trace, replay_append, h, wiresOf_run]

/-- What holds wherever an operation is cut: the invariant but for the lines and SEQ in READY and the pins. -/
def cutInv (s : State) : Prop :=
  s.ledCount = 1 ∧ s.mode = Config.modeValue ∧ (0 ≤ s.brightness ∧ s.brightness ≤ 1) ∧ linesFollowTrace s ∧
  (s.lifecycle ≠ .ready → s.seq = .idle ∧ s.dataLvl = .x ∧ s.clkLvl = .x)

theorem cutInv_of_inv {s : State} (h : Inv s) : cutInv s := by
  obtain ⟨hled, hmode, h0, h1, hseq, hlines, -, hundriven⟩ := h
  exact ⟨hled, hmode, ⟨h0, h1⟩, hlines, fun hl => ⟨hseq, hundriven hl⟩⟩

/-- A run from a state of the invariant keeps what no micro-action can break; the rest is the caller's. -/
theorem cutInv_run {s : State} (h : cutInv s) (ms : List Micro)
    (hb : 0 ≤ (run ms s).brightness ∧ (run ms s).brightness ≤ 1)
    (hl : (run ms s).lifecycle ≠ .ready → (run ms s).seq = .idle ∧ (run ms s).dataLvl = .x ∧ (run ms s).clkLvl = .x) :
    cutInv (run ms s) := by
  obtain ⟨hled, hmode, -, hlines, -⟩ := h
  exact ⟨(run_ledCount ms s).trans hled, (run_mode ms s).trans hmode, hb, linesFollowTrace_run hlines ms, hl⟩

theorem cutInv_takeEInit {s : State} (h : cutInv s) (hl : s.lifecycle ≠ .ready) : cutInv (takeEInit s) := by
  obtain ⟨hled, hmode, -, hlines, hundriven⟩ := h
  exact ⟨hled, hmode, clampBrightness_legal _, hlines, fun _ => hundriven hl⟩

/-- From what holds at a cut to the invariant. -/
theorem inv_of_cutInv {s : State} (h : cutInv s)
    (hready : s.lifecycle = .ready → atRest s ∧ s.dataPin ≠ s.clockPin) : Inv s := by
  obtain ⟨hled, hmode, ⟨h0, h1⟩, hlines, hundriven⟩ := h
  by_cases hl : s.lifecycle = .ready
  · obtain ⟨⟨hseq, hd, hc⟩, hpins⟩ := hready hl
    exact ⟨hled, hmode, h0, h1, hseq, hlines, fun _ => ⟨hd, hc, hpins⟩, fun hn => absurd hl hn⟩
  · obtain ⟨hseq, hd, hc⟩ := hundriven hl
    exact ⟨hled, hmode, h0, h1, hseq, hlines, fun hr => absurd hr hl, fun _ => ⟨hd, hc⟩⟩

theorem cutInv_cleanup {s : State} (h : cutInv s) : cutInv (run (cleanupScript s) s) := by
  obtain ⟨-, -, hb, -, hundriven⟩ := id h
  refine cutInv_run h _ (by rwa [run_cleanupScript_brightness]) fun _ => ?_
  by_cases hl : s.lifecycle = .ready
  · rw [run_cleanupScript s hl]; exact ⟨rfl, rfl, rfl⟩
  · rw [run_cleanupScript_not_ready s hl]; exact hundriven hl

theorem cleanup_not_ready (s : State) : (run (cleanupScript s) s).lifecycle ≠ .ready := by
  by_cases hl : s.lifecycle = .ready
  · rw [run_cleanupScript s hl]; simp
  · rwa [run_cleanupScript_not_ready s hl]

/-- CLEANUP brings any cut to the invariant, and the exit after it keeps that. -/
theorem inv_teardown {s : State} (h : cutInv s) : Inv (teardown s) :=
  inv_of_cutInv (s := run (cleanupScript s) s) (cutInv_cleanup h) fun hl => absurd hl (cleanup_not_ready s)

/-- Every cut of every operation but CLEANUP. -/
theorem cutInv_run_take {i : Instr} {s : State} {ms : List Micro} (h : Inv s) (hplan : planOf i s = .ok ms)
    (hi : i ≠ .cleanup) (n : Nat) : cutInv (run (ms.take n) s) := by
  have hcut := cutInv_of_inv h
  obtain ⟨-, -, hb, -, hundriven⟩ := id hcut
  cases planShape_of_planOf hplan with
  | emission hready hkeeps =>
    obtain ⟨-, -, -, hb', -, hl, -⟩ := run_keepsControl _ (keepsControl_take hkeeps n) s
    exact cutInv_run hcut _ (by rwa [hb']) fun hn => absurd (hl.trans hready) hn
  | setBrightness x hready =>
    obtain ⟨y, r, hrun, hy⟩ := run_take_setBrightness x n s
    refine cutInv_run hcut _ ?_ fun hn => absurd ?_ hn
    · rw [hrun]
      obtain rfl | rfl := hy
      · exact hb
      · exact clampBrightness_legal x
    · rw [hrun]; exact hready
  | init x hunbuilt =>
    obtain hn | hn := Nat.lt_or_ge n 5
    · obtain ⟨-, hseq, hwires, -, hb'⟩ := run_take_initScript_before _ _ x hn s
      obtain ⟨hseq0, hd0, hc0⟩ := hundriven (by simp [hunbuilt])
      refine cutInv_run hcut _ ?_ fun _ =>
        ⟨hseq.trans hseq0, (congrArg Wires.data hwires).trans hd0, (congrArg Wires.clk hwires).trans hc0⟩
      obtain hb' | hb' := hb' <;> rw [hb']
      · exact hb
      · exact clampBrightness_legal x
    · obtain ⟨m, rfl⟩ := Nat.exists_eq_add_of_le' hn
      obtain ⟨hl, -, -, hb', -⟩ := run_take_initScript_ready _ _ x m s
      exact cutInv_run hcut _ (by rw [hb']; exact clampBrightness_legal x) fun hn => absurd hl hn
  | initFails x hunbuilt =>
    rw [run_take_raiseEInit]
    split
    · exact hcut
    · exact cutInv_takeEInit hcut (by simp [hunbuilt])
  | cleanup => exact absurd rfl hi

/-- Every whole operation that the host can issue. -/
theorem inv_exec {i : Instr} {s t : State} (h : Inv s) (hi : i.hostIssued = true) (hexec : exec i s = .next t) :
    Inv t := by
  obtain ⟨ms, hplan, rfl⟩ := exec_next hexec
  by_cases hcleanup : i = .cleanup
  · subst hcleanup
    cases hplan
    rw [run_reply_last]
    exact inv_of_cutInv (s := run (cleanupScript s) s) (cutInv_cleanup (cutInv_of_inv h))
      fun hl => absurd hl (cleanup_not_ready s)
  have hcut : cutInv (run ms s) := by
    simpa using cutInv_run_take h hplan hcleanup ms.length
  refine inv_of_cutInv hcut fun hl => ?_
  by_cases hinit : ∃ p q x, i = .init p q x
  · obtain ⟨p, q, x, rfl⟩ := hinit
    obtain ⟨-, hdiffer, ⟨-, rfl⟩ | ⟨-, rfl⟩⟩ := planInit_ok hplan
    · rw [run_initScript]; exact ⟨⟨rfl, rfl, rfl⟩, hdiffer⟩
    · rw [run_raiseEInit] at hl; cases hl
  · push Not at hinit
    obtain ⟨-, -, -, -, hseq, -, hlow, hundriven⟩ := h
    have hready : s.lifecycle = .ready := by
      cases planShape_of_planOf hplan with
      | emission hready | setBrightness _ hready => exact hready
      | init x | initFails x => exact absurd rfl (hinit _ _ x)
      | cleanup => exact absurd rfl hcleanup
    obtain ⟨hd, hc, hpins⟩ := hlow hready
    obtain ⟨hp, hq⟩ := exec_keeps_pins hexec hinit
    exact ⟨planOf_atRest hplan ⟨hseq, hd, hc⟩ hi hinit hcleanup, by rwa [hp, hq]⟩

/-- Settles O49: a step runs an operation the host can issue, or a part of one and the teardown, or the teardown alone. -/
theorem everyStepKeepsInvariant : Obligations.EveryStepKeepsInvariant := by
  intro s t h hstep
  obtain rfl | ⟨-, input, rest, -, hserved⟩ := step_next hstep
  · exact h
  have hrest : Inv { s with inputs := rest } := h
  obtain ⟨c, i, -, hdecode, hexec⟩ | ⟨c, n, i, ms, -, -, hi, hplan, rfl⟩ | ⟨-, rfl⟩ := hserved
  · exact inv_exec hrest (hostIssued_of_decode hdecode) hexec
  · exact inv_teardown (cutInv_run_take hrest hplan hi n)
  · exact inv_teardown (cutInv_of_inv hrest)

/-- Settles O47: by computation. -/
theorem resetIsUnbuilt : Obligations.ResetIsUnbuilt := ⟨rfl, rfl, rfl, rfl, rfl, rfl, rfl⟩

/-- Settles O48: by computation; the default brightness is legal. -/
theorem resetMeetsInvariant : Obligations.ResetMeetsInvariant :=
  ⟨rfl, rfl, zero_le_one, le_refl _, rfl, rfl, nofun, fun _ => ⟨rfl, rfl⟩⟩

end Sys2Proof.Machine

/-! The events of the operations other than INIT are cells, latches, waits and a release, one after another; so every clock
edge is held (70_reset_and_hazards.md R149), and no pause is negative and the wall clock never runs back (60_exceptions.md
R136). -/

namespace Sys2Proof.Machine

/-! ### What the events of an operation are made of -/

/-- What the operations other than INIT can append to TRACE. -/
inductive OperationEvents : List Event → Prop where
  | nil : OperationEvents []
  | cell (b : Bool) : OperationEvents (cellEvents b)
  | latch : OperationEvents [.d .latch]
  | wait {t : Scalar} (h : 0 ≤ t) : OperationEvents [.wait t]
  | release (p q : Int) : OperationEvents [.release p q]
  | append {a b : List Event} (ha : OperationEvents a) (hb : OperationEvents b) : OperationEvents (a ++ b)

theorem operationEvents_flatMap {α : Type} {f : α → List Event} (h : ∀ x, OperationEvents (f x)) (xs : List α) :
    OperationEvents (xs.flatMap f) := by
  induction xs with
  | nil => exact .nil
  | cons x xs ih => exact .append (h x) ih

theorem operationEvents_byte (v : Byte) : OperationEvents (byteEvents v) :=
  operationEvents_flatMap (fun k => .cell (v.getLsbD k)) wireOrder

theorem operationEvents_frame (bytes : List Byte) : OperationEvents (frameEvents bytes) :=
  .append (operationEvents_flatMap operationEvents_byte bytes) .latch

theorem operationEvents_emitPixelScript (q : Scalar) (r g b : Int) :
    OperationEvents (eventsOf (emitPixelScript q r g b)) := by
  rw [eventsOf_emitPixelScript]
  exact operationEvents_frame _

theorem operationEvents_emitAndWait (q : Scalar) {d : Scalar} (hd : 0 ≤ d) (c : Colour) :
    OperationEvents (eventsOf (emitAndWait q d c)) := by
  rw [eventsOf_emitAndWait]
  exact .append (operationEvents_frame _) (.wait hd)

theorem eventsOf_flatMap {α : Type} (f : α → List Micro) (xs : List α) :
    eventsOf (xs.flatMap f) = xs.flatMap fun x => eventsOf (f x) := by
  induction xs with
  | nil => rfl
  | cons x xs ih => rw [List.flatMap_cons, eventsOf_append, ih, List.flatMap_cons]

theorem operationEvents_emissions (q : Scalar) {d : Scalar} (hd : 0 ≤ d) (cs : List Colour) :
    OperationEvents (eventsOf (cs.flatMap (emitAndWait q d))) := by
  rw [eventsOf_flatMap]
  exact operationEvents_flatMap (operationEvents_emitAndWait q hd) cs

theorem operationEvents_setColorScript (ledCount : Int) (q : Scalar) (r g b index : Int) :
    OperationEvents (eventsOf (setColorScript ledCount q r g b index)) := by
  unfold setColorScript
  split
  · exact operationEvents_emitPixelScript q r g b
  · exact .nil

theorem operationEvents_setColorHexScript (ledCount : Int) (q : Scalar) (str : List Char) :
    OperationEvents (eventsOf (setColorHexScript ledCount q str)) := by
  unfold setColorHexScript
  split
  · exact operationEvents_setColorScript ledCount q _ _ _ 0
  · exact .nil

theorem operationEvents_rainbowScript (ledCount : Int) (q : Scalar) (cycles : Int) {speed : Scalar} (hs : 0 ≤ speed) :
    OperationEvents (eventsOf (rainbowScript ledCount q cycles speed)) := by
  rw [rainbowScript, eventsOf_flatMap]
  refine operationEvents_flatMap (fun c => ?_) _
  rw [eventsOf_append]
  exact .append (operationEvents_setColorScript ledCount q c.r c.g c.b 0) (.wait hs)

theorem operationEvents_policePair (q : Scalar) {speed : Scalar} (hs : 0 ≤ speed) :
    OperationEvents (eventsOf (policePair q speed)) := by
  have hblank : 0 ≤ tBlank := by norm_num [tBlank]
  rw [policePair, eventsOf_append, eventsOf_append, eventsOf_append]
  exact .append (.append (.append (operationEvents_emitAndWait q hs _) (operationEvents_emitAndWait q hblank _))
    (operationEvents_emitAndWait q hs _)) (operationEvents_emitAndWait q hblank _)

theorem eventsOf_readClock (ms : List Micro) : eventsOf (.readClock :: ms) = eventsOf ms := rfl

theorem operationEvents_policeLoop (duration : Scalar) {speed : Scalar} (hs : 0 ≤ speed) (start : Scalar) (n : Nat)
    (s : State) : OperationEvents (eventsOf (policeLoop duration speed start n s)) := by
  induction n generalizing s with
  | zero => exact .nil
  | succ n ih =>
    rw [policeLoop]
    split
    · rw [eventsOf_readClock, eventsOf_append]
      exact .append (operationEvents_policePair _ hs) (ih _)
    · exact .nil

theorem operationEvents_cleanupScript (s : State) : OperationEvents (eventsOf (cleanupScript s)) := by
  unfold cleanupScript
  split
  · rw [eventsOf_append]
    exact .append (operationEvents_emitPixelScript _ 0 0 0) (.release s.dataPin s.clockPin)
  · exact .nil

/-- An answer ends an operation and is no event. -/
theorem operationEvents_reply {ms : List Micro} (h : OperationEvents (eventsOf ms)) (r : Reply) :
    OperationEvents (eventsOf (ms ++ [.reply r])) := by
  rw [eventsOf_append]
  exact .append h .nil

theorem whenTimes_nonneg {ts : List Scalar} {p : Plan} {ms : List Micro} (h : whenTimes ts p = .ok ms) :
    (∀ t ∈ ts, 0 ≤ t) ∧ p = .ok ms := by
  refine ⟨?_, whenTimes_ok h⟩
  unfold whenTimes at h
  split at h
  case isTrue hall => simpa using hall
  case isFalse => cases h

/-- Every operation but INIT. -/
theorem operationEvents_of_planOf {i : Instr} {s : State} {ms : List Micro} (h : planOf i s = .ok ms)
    (hi : ∀ p q x, i ≠ .init p q x) : OperationEvents (eventsOf ms) := by
  cases i with
  | init p q x => exact absurd rfl (hi p q x)
  | cleanup => cases h; exact operationEvents_reply (operationEvents_cleanupScript s) _
  | sendBit b => obtain ⟨-, he⟩ := whenReady_ok h; cases he; exact .cell b
  | sendByte v =>
    obtain ⟨-, he⟩ := whenReady_ok h; cases he
    rw [eventsOf_sendByteScript]
    exact operationEvents_byte v
  | latch => obtain ⟨-, he⟩ := whenReady_ok h; cases he; exact .latch
  | emitPixel r g b =>
    obtain ⟨-, he⟩ := whenReady_ok h; cases he
    exact operationEvents_reply (operationEvents_emitPixelScript _ r g b) _
  | setBrightness x => obtain ⟨-, he⟩ := whenReady_ok h; cases he; exact .nil
  | setColor r g b index =>
    obtain ⟨-, he⟩ := whenReady_ok h; cases he
    exact operationEvents_reply (operationEvents_setColorScript _ _ r g b index) _
  | setColorHex str =>
    obtain ⟨-, he⟩ := whenReady_ok h; cases he
    exact operationEvents_reply (operationEvents_setColorHexScript _ _ str) _
  | clear =>
    obtain ⟨-, he⟩ := whenReady_ok h; cases he
    exact operationEvents_reply (operationEvents_emitPixelScript _ 0 0 0) _
  | getStatus => obtain ⟨-, he⟩ := whenReady_ok h; cases he; exact .nil
  | demoSequence delay =>
    obtain ⟨-, he⟩ := whenReady_ok h
    obtain ⟨ht, he⟩ := whenTimes_nonneg he; cases he
    refine operationEvents_reply ?_ _
    rw [demoScript, eventsOf_append]
    exact .append (operationEvents_emissions _ (ht delay (by simp)) palette) (operationEvents_emitPixelScript _ 0 0 0)
  | breathingEffect r g b cycles duration =>
    obtain ⟨-, he⟩ := whenReady_ok h
    obtain ⟨ht, he⟩ := whenTimes_nonneg he; cases he
    exact operationEvents_reply (operationEvents_emissions _ (div_nonneg (ht duration (by simp)) (by norm_num)) _) _
  | rainbow cycles speed =>
    obtain ⟨-, he⟩ := whenReady_ok h
    obtain ⟨ht, he⟩ := whenTimes_nonneg he; cases he
    exact operationEvents_reply (operationEvents_rainbowScript _ _ cycles (ht speed (by simp))) _
  | policeLights duration speed =>
    obtain ⟨-, he⟩ := whenReady_ok h
    obtain ⟨ht, he⟩ := whenTimes_nonneg he; cases he
    exact operationEvents_reply (operationEvents_policeLoop duration (ht speed (by simp)) _ _ _) _
  | fadeBetweenColors c1 c2 steps duration =>
    obtain ⟨-, he⟩ := whenReady_ok h
    split at he
    · cases he
    · rename_i hsteps
      obtain ⟨ht, he⟩ := whenTimes_nonneg he; cases he
      have h1 : (0 : Scalar) ≤ (steps : Scalar) := by exact_mod_cast (by omega : 0 ≤ steps)
      exact operationEvents_reply (operationEvents_emissions _ (div_nonneg (ht duration (by simp)) h1) _) _

/-! ### Clock edges -/

/-- Such events can be put before any whose clock edges are held: the last write of a cell has its hold. -/
theorem edgesHeld_append {a : List Event} (h : OperationEvents a) {b : List Event} (hb : edgesHeld b = true) :
    edgesHeld (a ++ b) = true := by
  induction h generalizing b with
  | nil | cell | latch | wait | release => exact hb
  | append _ _ iha ihb => rw [List.append_assoc]; exact iha (ihb hb)

/-- Settles O21: by what the events of an operation are made of. -/
theorem everyClockEdgeIsHeld : Obligations.EveryClockEdgeIsHeld := by
  intro i s t hi h
  obtain ⟨ms, hplan, rfl⟩ := exec_next h
  refine ⟨eventsOf ms, run_trace ms s, ?_⟩
  have := edgesHeld_append (operationEvents_of_planOf hplan hi) (b := []) rfl
  rwa [List.append_nil] at this

/-! ### The wall clock -/

theorem pauseOf_d_nonneg (p : Pause) : 0 ≤ pauseOf (.d p) := by
  cases p with
  | hold => norm_num [pauseOf, Config.tHold]
  | latch => exact tLatch_nonneg

theorem pauseOf_nonneg {es : List Event} (h : OperationEvents es) : ∀ e ∈ es, 0 ≤ pauseOf e := by
  induction h with
  | nil => simp
  | cell b =>
    have hhold : 0 ≤ Config.tHold := pauseOf_d_nonneg .hold
    simp [cellEvents, pauseOf, hhold]
  | latch => simpa using pauseOf_d_nonneg .latch
  | wait ht => simpa [pauseOf] using ht
  | release p q => simp [pauseOf]
  | append _ _ iha ihb =>
    intro e he
    exact (List.mem_append.1 he).elim (iha e) (ihb e)

theorem clock_le_applyMicro {m : Micro} (h : ∀ e ∈ eventsOf [m], 0 ≤ pauseOf e) (s : State) :
    s.clock ≤ (applyMicro s m).clock := by
  cases m with
  | event e =>
    have he : 0 ≤ pauseOf e := h e (by simp)
    cases e with
    | w line v => cases line <;> exact le_refl _
    | d p => exact le_add_of_nonneg_right he
    | wait t => exact le_add_of_nonneg_right he
    | acquire p q | release p q => exact le_refl _
  | readClock => exact le_add_of_nonneg_right (lag_nonneg s.draws)
  | _ => exact le_refl _

/-- Pauses and readings let the clock run on (R136). -/
theorem clock_le_run {ms : List Micro} (h : ∀ e ∈ eventsOf ms, 0 ≤ pauseOf e) (s : State) :
    s.clock ≤ (run ms s).clock := by
  have hmicro : ∀ m ∈ ms, ∀ s : State, s.clock ≤ (applyMicro s m).clock := fun m hm =>
    clock_le_applyMicro fun e he => h e (((List.singleton_sublist.2 hm).filterMap microEvent).subset he)
  exact foldl_applyMicro_rel (R := fun s t => s.clock ≤ t.clock) (fun _ => le_refl _) (fun _ _ _ => le_trans) hmicro s

theorem pauseOf_nonneg_of_planOf {i : Instr} {s : State} {ms : List Micro} (h : planOf i s = .ok ms) :
    ∀ e ∈ eventsOf ms, 0 ≤ pauseOf e := by
  by_cases hinit : ∃ p q x, i = .init p q x
  · obtain ⟨p, q, x, rfl⟩ := hinit
    obtain ⟨-, -, ⟨-, rfl⟩ | ⟨-, rfl⟩⟩ := planInit_ok h
    · rw [eventsOf_initScript]
      have := pauseOf_nonneg (operationEvents_frame blackBytes)
      simpa [pauseOf] using this
    · simp [eventsOf_register _ (show microEvent .raiseEInit = none from rfl)]
  · push Not at hinit
    exact pauseOf_nonneg (operationEvents_of_planOf h hinit)

theorem clock_le_teardown (s : State) : s.clock ≤ (teardown s).clock :=
  clock_le_run (pauseOf_nonneg (operationEvents_cleanupScript s)) s

/-- Settles O54: the events of a run are those of a plan, of a first part of one, or of the teardown. -/
theorem theClockNeverRunsBack : Obligations.TheClockNeverRunsBack := by
  intro s t h
  obtain rfl | ⟨-, input, rest, -, hserved⟩ := step_next h
  · exact le_refl _
  obtain ⟨c, i, -, -, hexec⟩ | ⟨c, n, i, ms, -, -, -, hplan, rfl⟩ | ⟨-, rfl⟩ := hserved
  · obtain ⟨ms, hplan, rfl⟩ := exec_next hexec
    exact clock_le_run (pauseOf_nonneg_of_planOf hplan) { s with inputs := rest }
  · have hcut : ∀ e ∈ eventsOf (ms.take n), 0 ≤ pauseOf e := fun e he =>
      pauseOf_nonneg_of_planOf hplan e ((eventsOf_take_prefix ms n).subset he)
    exact (clock_le_run hcut { s with inputs := rest }).trans (clock_le_teardown _)
  · exact clock_le_teardown { s with inputs := rest }

end Sys2Proof.Machine

/-! The arithmetic of an emission (40_encoder_ops.md R68 to R71, 30_encoding.md R50 to R53) and of WHEEL (42_effects.md R105). -/

namespace Sys2Proof.Machine

/-! ### Scaling and clamping a channel -/

/-- Settles O6: the product lies between 0 and the channel, and the floor of an integer is itself. -/
theorem scaledChannelBounds : Obligations.ScaledChannelBounds := by
  intro c q h0 h1
  refine ⟨fun hc => ?nonneg, fun hc => ?neg, fun hq => ?one, fun hz => ?zero⟩
  case nonneg =>
    have hc' : (0 : Scalar) ≤ c := by exact_mod_cast hc
    refine ⟨Int.floor_nonneg.2 (mul_nonneg hc' h0), ?_⟩
    have hle := Int.floor_mono (mul_le_of_le_one_right hc' h1)
    rwa [Int.floor_intCast] at hle
  case neg =>
    have hc' : (c : Scalar) < 0 := by exact_mod_cast hc
    have hle : (c : Scalar) ≤ c * q := by simpa using mul_le_mul_of_nonpos_left h1 hc'.le
    refine ⟨Int.le_floor.2 hle, Int.floor_nonpos (mul_nonpos_of_nonpos_of_nonneg hc'.le h0), fun hq => ?_⟩
    refine Int.floor_lt.2 ?_
    rw [Int.cast_zero]
    exact mul_neg_of_neg_of_pos hc' (lt_of_le_of_ne h0 (Ne.symm hq))
  case one => rw [scaleFn, hq, mul_one, Int.floor_intCast]
  case zero =>
    have hprod : (c : Scalar) * q = 0 := by
      obtain rfl | rfl := hz
      · exact mul_zero _
      · rw [Int.cast_zero, zero_mul]
    rw [scaleFn, hprod, Int.floor_zero]

theorem clampInt_eq_max_min (x : Int) : clampInt x 0 255 = max 0 (min 255 x) := by
  unfold clampInt
  split
  · omega
  · split <;> omega

/-- The byte of a channel, clamped after the scaling (R51, R69). -/
theorem channelByte_toNat_eq (q : Scalar) (c : Int) :
    ((channelByte q c).toNat : Int) = max 0 (min 255 ⌊(c : Scalar) * q⌋) := by
  rw [channelByte_toNat, clampInt_eq_max_min, scaleFn]

/-- The floor of a scaled channel as an integer quotient. -/
theorem floor_mul_eq_ediv (c : Int) (q : Scalar) : ⌊(c : Scalar) * q⌋ = c * q.num / q.den := by
  rw [← Rat.floor_intCast_div_natCast]
  congr 1
  push_cast
  rw [mul_div_assoc, Rat.num_div_den]

/-- Rounding down and rounding toward zero differ below zero alone, where both are clamped to 0 (C2). -/
theorem clamp_tdiv_eq_clamp_ediv (a : Int) {d : Int} (hd : 0 < d) :
    max 0 (min 255 (a.tdiv d)) = max 0 (min 255 (a / d)) := by
  obtain ha | ha := le_or_gt 0 a
  · rw [Int.tdiv_eq_ediv_of_nonneg ha]
  · have hneg : a / d < 0 := Int.ediv_neg_of_neg_of_pos ha hd
    rw [Int.tdiv_eq_ediv, Int.sign_eq_one_of_pos hd]
    split <;> omega

/-- Settles O7: by the byte of a channel and the two roundings. -/
theorem channelByteIsScaledThenClamped : Obligations.ChannelByteIsScaledThenClamped := by
  intro c q _
  have hbyte := channelByte_toNat_eq q c
  refine ⟨fun h => by omega, fun h => by omega, fun h0 h1 => by omega, ?_⟩
  rw [hbyte, clamp_tdiv_eq_clamp_ediv _ (by exact_mod_cast q.den_pos), floor_mul_eq_ediv]

/-! ### The control byte -/

/-- Settles O8: for each of the 256 byte values. -/
theorem controlFieldTable : Obligations.ControlFieldTable := by
  unfold Obligations.ControlFieldTable
  decide +kernel

theorem controlField_eq_ofNat (ch : Byte) : controlField ch = BitVec.ofNat 8 (3 - ch.toNat / 64) := by
  obtain ⟨hfield, -⟩ := controlFieldTable ch
  rw [← hfield, BitVec.ofNat_toNat, BitVec.setWidth_eq]

/-- The three fields stand side by side (R50). -/
theorem packed_fields_toNat : ∀ r < 4, ∀ g < 4, ∀ b < 4,
    (0xC0 ||| (BitVec.ofNat 8 r <<< 4) ||| (BitVec.ofNat 8 g <<< 2) ||| BitVec.ofNat 8 b).toNat =
      192 + 16 * r + 4 * g + b := by
  decide

theorem controlByte_toNat (chR chG chB : Byte) :
    (controlByte chR chG chB).toNat =
      192 + 16 * (3 - chR.toNat / 64) + 4 * (3 - chG.toNat / 64) + (3 - chB.toNat / 64) := by
  simp only [controlByte, controlField_eq_ofNat]
  exact packed_fields_toNat _ (by omega) _ (by omega) _ (by omega)

/-- The bits of a control field: the inverted top bits of its channel, and no more (R52). -/
theorem controlField_getLsbD (ch : Byte) :
    (controlField ch).getLsbD 0 = !ch.getLsbD 6 ∧ (controlField ch).getLsbD 1 = !ch.getLsbD 7 ∧
      ∀ i, 2 ≤ i → (controlField ch).getLsbD i = false := by
  obtain ⟨hfield, -, -, -, -, -, h1, h0⟩ := controlFieldTable ch
  refine ⟨h0, h1, fun i hi => Nat.testBit_lt_two_pow (hfield ▸ ?_)⟩
  have hpow : 2 ^ 2 ≤ 2 ^ i := Nat.pow_le_pow_right (by decide) hi
  omega

/-- Settles O9: the fields of the control byte lie in different bits. -/
theorem controlByteHoldsInvertedTopBits : Obligations.ControlByteHoldsInvertedTopBits := by
  intro chR chG chB
  have hnum := controlByte_toNat chR chG chB
  obtain ⟨r0, r1, r2⟩ := controlField_getLsbD chR
  obtain ⟨g0, g1, g2⟩ := controlField_getLsbD chG
  obtain ⟨b0, b1, b2⟩ := controlField_getLsbD chB
  refine ⟨rfl, hnum, by omega, ?_⟩
  simp [controlByte, -BitVec.getLsbD_eq_getElem, r0, r1, r2, g0, g1, g2, b0, b1, b2]

theorem ctrlOf_ge (q : Scalar) (c : Colour) : 192 ≤ (ctrlOf q c).toNat := by
  rw [ctrlOf, controlByte_toNat]
  omega

/-- At full brightness a channel in range is its own byte. -/
theorem channelByte_one {c : Nat} (h : c ≤ 255) : (channelByte 1 c).toNat = c := by
  have hbyte := channelByte_toNat_eq 1 c
  rw [mul_one, Int.floor_intCast] at hbyte
  omega

/-- A channel whose control field is the last two bits of a number. -/
def fieldChannel (field : Nat) : Nat := 64 * (3 - field % 4)

theorem fieldChannel_le (field : Nat) : fieldChannel field ≤ 255 := by
  unfold fieldChannel
  omega

/-- Settles O10: the colour of three channels 0, 64, 128 or 192 has the control byte of any three fields. -/
theorem controlBytesAreTheTopSixtyFour : Obligations.ControlBytesAreTheTopSixtyFour := by
  intro v
  refine ⟨fun ⟨q, c, _, _, hv⟩ => hv ▸ ctrlOf_ge q c, fun hv => ?_⟩
  have hlt := v.isLt
  refine ⟨1, ⟨fieldChannel (v.toNat / 16), fieldChannel (v.toNat / 4), fieldChannel v.toNat⟩, zero_le_one, le_refl _,
    BitVec.eq_of_toNat_eq ?_⟩
  simp only [ctrlOf, controlByte_toNat, channelByte_one (fieldChannel_le _)]
  unfold fieldChannel
  omega

/-! ### Hex colours -/

/-- The characters that are hex digits, and their values (R53, D13). -/
theorem hexDigit_cases {c : Char} {n : Int} (h : hexDigit c = some n) :
    (48 ≤ c.toNat ∧ c.toNat ≤ 57 ∧ n = c.toNat - 48) ∨ (97 ≤ c.toNat ∧ c.toNat ≤ 102 ∧ n = c.toNat - 87) ∨
      (65 ≤ c.toNat ∧ c.toNat ≤ 70 ∧ n = c.toNat - 55) := by
  have hle (a b : Char) : a ≤ b ↔ a.toNat ≤ b.toNat := Iff.rfl
  simp only [hexDigit, hle] at h
  split at h
  · left; simp_all
  · split at h
    · right; left; simp_all
    · split at h
      · right; right; simp_all
      · cases h

theorem hexPair_eq_some {c d : Char} {n : Int} :
    hexPair c d = some n ↔ ∃ hi lo, hexDigit c = some hi ∧ hexDigit d = some lo ∧ n = 16 * hi + lo := by
  unfold hexPair
  cases hexDigit c <;> cases hexDigit d <;> simp [eq_comm]

/-- A pair of digits is a byte's value. -/
theorem hexPair_range {c d : Char} {n : Int} (h : hexPair c d = some n) : 0 ≤ n ∧ n ≤ 255 := by
  obtain ⟨hi, lo, hc, hd, rfl⟩ := hexPair_eq_some.1 h
  have := hexDigit_cases hc
  have := hexDigit_cases hd
  omega

/-- What is left after at most one leading `#` (R53). -/
theorem dropHash_eq_iff (str t : List Char) :
    dropHash str = t ↔ str = '#' :: t ∨ (str = t ∧ t.head? ≠ some '#') := by
  cases str with
  | nil => cases t <;> simp [dropHash]
  | cons c cs =>
    by_cases hc : c = '#'
    · subst hc
      simp only [dropHash, if_true, List.cons.injEq, true_and, iff_self_or]
      rintro ⟨rfl, hhead⟩
      exact absurd rfl hhead
    · simp only [dropHash, hc, if_false, List.cons.injEq, false_and, false_or, iff_self_and]
      rintro rfl
      simpa using hc

theorem parseHex_eq_some {str : List Char} {k : Colour} :
    parseHex str = some k ↔ ∃ c0 c1 c2 c3 c4 c5, dropHash str = [c0, c1, c2, c3, c4, c5] ∧
      hexPair c0 c1 = some k.r ∧ hexPair c2 c3 = some k.g ∧ hexPair c4 c5 = some k.b := by
  constructor
  · intro h
    unfold parseHex at h
    split at h
    · rename_i c0 c1 c2 c3 c4 c5 hdrop
      split at h
      · rename_i r g b hr hg hb
        cases h
        exact ⟨c0, c1, c2, c3, c4, c5, hdrop, hr, hg, hb⟩
      · cases h
    · cases h
  · rintro ⟨c0, c1, c2, c3, c4, c5, hdrop, hr, hg, hb⟩
    simp only [parseHex, hdrop, hr, hg, hb]

/-- Settles O11: the digits, then the string taken apart into its six characters. -/
theorem hexColourParsing : Obligations.HexColourParsing := by
  refine ⟨by decide, by decide, fun c hc => ?_, fun str r g b => ⟨fun h => ?_, ?_⟩⟩
  · obtain ⟨n, hn⟩ := Option.isSome_iff_exists.1 hc
    have := hexDigit_cases hn
    omega
  · obtain ⟨c0, c1, c2, c3, c4, c5, hdrop, hr, hg, hb⟩ := parseHex_eq_some.1 h
    obtain ⟨r1, r0, hc0, hc1, hr⟩ := hexPair_eq_some.1 hr
    obtain ⟨g1, g0, hc2, hc3, hg⟩ := hexPair_eq_some.1 hg
    obtain ⟨b1, b0, hc4, hc5, hb⟩ := hexPair_eq_some.1 hb
    exact ⟨_, (dropHash_eq_iff _ _).1 hdrop, rfl, [r1, r0, g1, g0, b1, b0],
      by simp [hc0, hc1, hc2, hc3, hc4, hc5], hr, hg, hb⟩
  · rintro ⟨t, hstr, hlength, h, hdigits, rfl, rfl, rfl⟩
    have hdrop := (dropHash_eq_iff _ _).2 hstr
    obtain ⟨c0, c1, c2, c3, c4, c5, rfl⟩ : ∃ c0 c1 c2 c3 c4 c5, t = [c0, c1, c2, c3, c4, c5] := by
      match t, hlength with
      | [c0, c1, c2, c3, c4, c5], _ => exact ⟨c0, c1, c2, c3, c4, c5, rfl⟩
    have hlen : h.length = 6 := by simpa using (congrArg List.length hdigits).symm
    obtain ⟨r1, r0, g1, g0, b1, b0, rfl⟩ : ∃ r1 r0 g1 g0 b1 b0, h = [r1, r0, g1, g0, b1, b0] := by
      match h, hlen with
      | [r1, r0, g1, g0, b1, b0], _ => exact ⟨r1, r0, g1, g0, b1, b0, rfl⟩
    simp only [List.map_cons, List.cons.injEq] at hdigits
    obtain ⟨hc0, hc1, hc2, hc3, hc4, hc5, -⟩ := hdigits
    exact parseHex_eq_some.2 ⟨c0, c1, c2, c3, c4, c5, hdrop, hexPair_eq_some.2 ⟨r1, r0, hc0, hc1, rfl⟩,
      hexPair_eq_some.2 ⟨g1, g0, hc2, hc3, rfl⟩, hexPair_eq_some.2 ⟨b1, b0, hc4, hc5, rfl⟩⟩

/-! ### WHEEL -/

theorem wheel_first {i : Int} (h : i ≤ 84) : wheel i = ⟨3 * i, 255 - 3 * i, 0⟩ := if_pos h

theorem wheel_second {i : Int} (h0 : 85 ≤ i) (h1 : i ≤ 169) : wheel i = ⟨255 - 3 * (i - 85), 0, 3 * (i - 85)⟩ := by
  rw [wheel, if_neg (by omega), if_pos h1]

theorem wheel_third {i : Int} (h : 170 ≤ i) : wheel i = ⟨0, 3 * (i - 170), 255 - 3 * (i - 170)⟩ := by
  rw [wheel, if_neg (by omega), if_neg (by omega)]

theorem wheel_range {i : Int} (h0 : 0 ≤ i) (h1 : i ≤ 255) :
    (0 ≤ (wheel i).r ∧ (wheel i).r ≤ 255) ∧ (0 ≤ (wheel i).g ∧ (wheel i).g ≤ 255) ∧
      (0 ≤ (wheel i).b ∧ (wheel i).b ≤ 255) := by
  obtain h | h | h : i ≤ 84 ∨ (85 ≤ i ∧ i ≤ 169) ∨ 170 ≤ i := by omega
  · rw [wheel_first h]; dsimp only; omega
  · rw [wheel_second h.1 h.2]; dsimp only; omega
  · rw [wheel_third h]; dsimp only; omega

/-- Settles O12: segment by segment; the values at the ends are computed. -/
theorem wheelSegments : Obligations.WheelSegments :=
  ⟨fun _ _ h1 => wheel_first h1, fun _ h0 h1 => wheel_second h0 h1, fun _ h0 _ => wheel_third h0,
    fun _ h0 h1 => wheel_range h0 h1, rfl, rfl, rfl, rfl, rfl, rfl, rfl⟩

end Sys2Proof.Machine

/-! The wire (30_encoding.md R46 to R49, 40_encoder_ops.md R65 to R76): a frame is its wire bits, a cell each, and a latch; so
what it counts, what the receiver samples and, wherever it is cut, the line levels are read off the bits. -/

namespace Sys2Proof.Machine

/-! ### The leaf operations in READY -/

/-- LATCH in READY (R67). -/
theorem exec_latch_ready {s : State} (h : s.lifecycle = .ready) : exec .latch s = .next (run latchScript s) := by
  rw [exec_eq_perform, planOf, planLatch, whenReady_ready h, perform_ok]

/-- Settles O13: the script of SEND_BIT, run whole. -/
theorem sendBitSendsOneCell : Obligations.SendBitSendsOneCell := by
  intro b s hready
  refine ⟨_, exec_sendBit_ready b hready, ?_, ?_, rxFrom_cell (wiresOf s) b⟩
  · rw [run_sendBitScript]; rfl
  · rw [run_sendBitScript]; exact le_refl _

theorem byteEvents_eq_range (v : Byte) :
    byteEvents v = (List.range 8).flatMap fun k : Nat => cellEvents (v.getLsbD (7 - k)) := rfl

/-- Settles O14: the script of SEND_BYTE, run whole. -/
theorem sendByteSendsEightCells : Obligations.SendByteSendsEightCells := by
  intro v s hready
  refine ⟨_, exec_sendByte_ready v hready, ?_, ?_⟩
  · rw [run_sendByteScript, byteEvents_eq_range]
  · rw [run_sendByteScript]; exact le_refl _

/-- Settles O15: the script of LATCH, run whole. -/
theorem latchIsOnePause : Obligations.LatchIsOnePause := by
  intro s hready
  refine ⟨_, exec_latch_ready hready, ?_, ?_, rfl, tLatch_nonneg⟩
  · rw [run_latchScript]
  · rw [run_latchScript]

/-- Settles O16: the script of EMIT_PIXEL, run whole. -/
theorem emitPixelSendsItsFrame : Obligations.EmitPixelSendsItsFrame := by
  intro r g b s hready
  exact ⟨channelByte_toNat_eq _ r, channelByte_toNat_eq _ g, channelByte_toNat_eq _ b, _,
    exec_emitPixel_ready r g b hready, rfl, le_refl _⟩

/-! ### A frame as its wire bits -/

/-- The events of some wire bits, a cell each (R46). -/
def cells (bits : List Bool) : List Event :=
  bits.flatMap cellEvents

theorem cells_cons (b : Bool) (bits : List Bool) : cells (b :: bits) = cellEvents b ++ cells bits := rfl

theorem cells_append (a b : List Bool) : cells (a ++ b) = cells a ++ cells b := by
  simp [cells]

theorem byteEvents_eq_cells (v : Byte) : byteEvents v = cells (wireOrder.map fun k => v.getLsbD k) := rfl

theorem wireBits_cons (v : Byte) (bytes : List Byte) :
    wireBits (v :: bytes) = (wireOrder.map fun k => v.getLsbD k) ++ wireBits bytes := rfl

theorem wireBits_append (a b : List Byte) : wireBits (a ++ b) = wireBits a ++ wireBits b := by
  simp [wireBits]

theorem flatMap_byteEvents_eq_cells (bytes : List Byte) : bytes.flatMap byteEvents = cells (wireBits bytes) := by
  induction bytes with
  | nil => rfl
  | cons v vs ih => rw [List.flatMap_cons, ih, wireBits_cons, cells_append, byteEvents_eq_cells]

theorem frameEvents_eq_cells (bytes : List Byte) : frameEvents bytes = cells (wireBits bytes) ++ [.d .latch] := by
  rw [frameEvents, flatMap_byteEvents_eq_cells]

theorem length_wireBits (bytes : List Byte) : (wireBits bytes).length = 8 * bytes.length := by
  induction bytes with
  | nil => rfl
  | cons v vs ih =>
    rw [wireBits_cons, List.length_append, ih, List.length_map, List.length_cons]
    simp only [wireOrder, List.length_cons, List.length_nil]
    omega

theorem length_frameOf (q : Scalar) (c : Colour) : (frameOf q c).length = 12 := rfl

/-- Wire bit `n` is bit `7 - n % 8` of byte `n / 8` (R49). -/
theorem getElem?_wireBits (bytes : List Byte) {n : Nat} (hn : n < 8 * bytes.length) :
    (wireBits bytes)[n]? = some ((bytes.getD (n / 8) 0).getLsbD (7 - n % 8)) := by
  induction bytes generalizing n with
  | nil => exact absurd hn (Nat.not_lt_zero n)
  | cons v vs ih =>
    rw [wireBits_cons]
    by_cases h8 : n < 8
    · have hin : n < wireOrder.length := h8
      have hdiv : n / 8 = 0 := by omega
      have hmod : n % 8 = n := by omega
      rw [List.getElem?_append_left (by simpa using hin), List.getElem?_map, List.getElem?_eq_getElem hin,
        wireOrder_getElem n hin, hdiv, hmod]
      rfl
    · have hdiv : n / 8 = (n - 8) / 8 + 1 := by omega
      have hmod : n % 8 = (n - 8) % 8 := by omega
      rw [List.getElem?_append_right (by simpa [wireOrder] using h8), hdiv, hmod]
      rw [List.length_cons] at hn
      exact ih (n := n - 8) (by omega)

/-- The zero bytes at both ends of a frame are thirty-two zero bits each. -/
theorem wireBits_frameOf (q : Scalar) (c : Colour) :
    wireBits (frameOf q c) = List.replicate 32 false ++
      wireBits [ctrlOf q c, channelByte q c.b, channelByte q c.g, channelByte q c.r] ++ List.replicate 32 false := by
  have hzeros : wireBits [0x00, 0x00, 0x00, 0x00] = List.replicate 32 false := by decide
  rw [← hzeros, ← wireBits_append, ← wireBits_append]
  rfl

/-! ### What the receiver samples -/

/-- Settles O18: from a low clock the receiver gets the wire bits. -/
theorem frameBitsReachTheReceiver : Obligations.FrameBitsReachTheReceiver := by
  intro q c p hlow
  rw [rxFrom_frame p hlow]
  have hlength : (wireBits (frameOf q c)).length = 96 := length_wireBits _
  refine ⟨by rw [List.length_map, hlength], fun n hn => ?_, ?_⟩
  · rw [List.getElem?_map, getElem?_wireBits _ (by rwa [length_frameOf])]
    rfl
  · rw [wireBits_frameOf, List.map_append, List.map_append, List.map_replicate]
    rfl

/-- Settles O19: the first cell has no rising edge and leaves the clock low. -/
theorem frameFromHighClockLosesOneBit : Obligations.FrameFromHighClockLosesOneBit := by
  intro q c d
  obtain ⟨hlength, -⟩ := frameBitsReachTheReceiver q c ⟨.low, .low⟩ rfl
  have htail : rxFrom ⟨d, .high⟩ (frameEvents (frameOf q c)) =
      (rxFrom ⟨.low, .low⟩ (frameEvents (frameOf q c))).tail := by
    obtain ⟨b, bits, hbits⟩ := List.exists_cons_of_length_eq_add_one (length_wireBits (frameOf q c))
    rw [frameEvents_eq_cells, hbits, cells_cons, List.append_assoc, rxFrom_append ⟨d, .high⟩,
      rxFrom_append ⟨.low, .low⟩, rxFrom_cell, rxFrom_cell]
    rfl
  exact ⟨htail, by rw [htail, List.length_tail, hlength]⟩

/-! ### The events of a frame, counted -/

theorem length_cells (bits : List Bool) : (cells bits).length = 5 * bits.length := by
  induction bits with
  | nil => rfl
  | cons b bits ih =>
    rw [cells_cons, List.length_append, ih, List.length_cons]
    simp only [cellEvents, List.length_cons, List.length_nil]
    omega

/-- An event that every cell has the same number of times. -/
theorem count_cells {e : Event} {k : Nat} (h : ∀ b, (cellEvents b).count e = k) (bits : List Bool) :
    (cells bits).count e = bits.length * k := by
  induction bits with
  | nil => simp [cells]
  | cons b bits ih => rw [cells_cons, List.count_append, ih, h, List.length_cons]; ring

/-- Each cell writes the data line once, at one level or the other. -/
theorem count_data_cells (bits : List Bool) :
    (cells bits).count (.w .data false) + (cells bits).count (.w .data true) = bits.length := by
  induction bits with
  | nil => rfl
  | cons b bits ih =>
    have hone : (cellEvents b).count (.w .data false) + (cellEvents b).count (.w .data true) = 1 := by
      cases b <;> decide
    rw [cells_cons, List.count_append, List.count_append, List.length_cons]
    omega

theorem pauses_cells (bits : List Bool) : ((cells bits).map pauseOf).sum = bits.length * (2 * Config.tHold) := by
  induction bits with
  | nil => simp [cells]
  | cons b bits ih =>
    have hone : ((cellEvents b).map pauseOf).sum = 2 * Config.tHold := by
      simp [cellEvents, pauseOf]; ring
    rw [cells_cons, List.map_append, List.sum_append, ih, hone, List.length_cons]
    push_cast
    ring

/-- The two flag bits of the control byte (R50). -/
theorem controlByte_flags (chR chG chB : Byte) :
    (controlByte chR chG chB).getLsbD 7 = true ∧ (controlByte chR chG chB).getLsbD 6 = true := by
  obtain ⟨-, -, -, hbits⟩ := controlByteHoldsInvertedTopBits chR chG chB
  simp only [List.cons.injEq] at hbits
  obtain ⟨h7, h6, -⟩ := hbits
  exact ⟨h7, h6⟩

/-- Settles O17: 96 cells and a latch. -/
theorem emissionCounts : Obligations.EmissionCounts := by
  intro q c
  have hbits : (wireBits (frameOf q c)).length = 96 := length_wireBits _
  obtain ⟨hlength, hnth, hlist⟩ := frameBitsReachTheReceiver q c ⟨.low, .low⟩ rfl
  obtain ⟨h7, h6⟩ := controlByte_flags (channelByte q c.r) (channelByte q c.g) (channelByte q c.b)
  have hmiddle : ((wireBits [ctrlOf q c, channelByte q c.b, channelByte q c.g, channelByte q c.r]).map levelOf).length
      = 32 := by rw [List.length_map]; exact length_wireBits _
  refine ⟨?_, ?_, ?_, ?_, ?_, ?_, ?_, hlength, ?_, ?_, (hnth 32 (by decide)).trans ?_, (hnth 33 (by decide)).trans ?_⟩
  · rw [frameEvents_eq_cells, List.length_append, length_cells, hbits]; rfl
  · have hlatch : ∀ v, [Event.d .latch].count (.w .data v) = 0 := by decide
    rw [frameEvents_eq_cells, List.count_append, List.count_append, hlatch, hlatch, Nat.add_zero, Nat.add_zero,
      count_data_cells, hbits]
  · rw [frameEvents_eq_cells, List.count_append, count_cells (k := 1) (by decide), hbits]; rfl
  · rw [frameEvents_eq_cells, List.count_append, count_cells (k := 1) (by decide), hbits]; rfl
  · rw [frameEvents_eq_cells, List.count_append, count_cells (k := 2) (by decide), hbits]; rfl
  · rw [frameEvents_eq_cells, List.count_append, count_cells (k := 0) (by decide), hbits]; rfl
  · have hlatch : ([Event.d .latch].map pauseOf).sum = Config.tLatch := by simp [pauseOf]
    rw [frameEvents_eq_cells, List.map_append, List.sum_append, pauses_cells, hbits, hlatch]
    norm_num [Config.tHold]
  · rw [hlist, List.append_assoc, List.take_left' (by simp)]
  · rw [hlist, List.drop_left' (by simp [hmiddle])]
  · exact congrArg (fun b => some (levelOf b)) h7
  · exact congrArg (fun b => some (levelOf b)) h6

end Sys2Proof.Machine

/-! The line levels wherever an EMIT_PIXEL is cut (60_exceptions.md R129, the table after it): the events done are the first
`j` of the frame's 481, and from `j` follow both SEQ and the levels. -/

namespace Sys2Proof.Machine

/-! ### SEQ after the first events of a frame -/

theorem seqAdvance_succ (n : Nat) (p : SeqPos) : seqAdvance (n + 1) p = seqNext (seqAdvance n p) :=
  seqAdvance_add n 1 p

/-- Five events a cell, eight cells a byte (R19). -/
theorem seqAdvance_cell {j : Nat} (hj : j < 480) :
    seqAdvance j (.cell 0 7 0) =
      .cell ⟨j / 40, by omega⟩ ⟨7 - j / 5 % 8, by omega⟩ ⟨j % 5, by omega⟩ := by
  induction j with
  | zero => rfl
  | succ j ih =>
    rw [seqAdvance_succ, ih (by omega), seqNext]
    dsimp only
    split_ifs with hphase hbit hbyte
    case neg => omega
    all_goals simp only [SeqPos.cell.injEq, Fin.ext_iff, Fin.val_zero]
    all_goals omega

/-- The micro-actions that move SEQ by their event, if they have one, and not otherwise. -/
def movesSeqByEvent : Micro → Bool
  | .event (.w _ _) | .event (.d _) => true
  | .event _ | .startFrame => false
  | _ => true

theorem applyMicro_seq {m : Micro} (h : movesSeqByEvent m = true) (s : State) :
    (applyMicro s m).seq = seqAdvance (eventsOf [m]).length s.seq := by
  cases m with
  | event e =>
    cases e with
    | w line v => cases line <;> rfl
    | d p => rfl
    | wait | acquire | release => cases h
  | startFrame => cases h
  | _ => rfl

theorem run_seq {ms : List Micro} (h : ms.all movesSeqByEvent = true) (s : State) :
    (run ms s).seq = seqAdvance (eventsOf ms).length s.seq := by
  suffices hf : ∀ s, (ms.foldl applyMicro s).seq = seqAdvance (eventsOf ms).length s.seq from hf s
  induction ms with
  | nil => exact fun _ => rfl
  | cons m ms ih =>
    intro s
    simp only [List.all_cons, Bool.and_eq_true] at h
    have happ : eventsOf (m :: ms) = eventsOf [m] ++ eventsOf ms := eventsOf_append [m] ms
    rw [List.foldl_cons, ih h.2, applyMicro_seq h.1, happ, List.length_append, seqAdvance_add]

/-! ### The levels after the first events of a frame -/

/-- The first events of some cells: whole cells, then a part of the next. -/
theorem take_cells {bits : List Bool} {k : Nat} {b : Bool} (h : bits[k]? = some b) (phase : Nat) (hp : phase ≤ 5) :
    (cells bits).take (5 * k + phase) = cells (bits.take k) ++ (cellEvents b).take phase := by
  induction bits generalizing k with
  | nil => simp at h
  | cons a bits ih =>
    rw [cells_cons]
    cases k with
    | zero =>
      simp only [List.getElem?_cons_zero, Option.some.injEq] at h
      rw [h, Nat.mul_zero, Nat.zero_add, List.take_append_of_le_length hp]
      rfl
    | succ k =>
      rw [List.getElem?_cons_succ] at h
      have hlen : (cellEvents a).length = 5 := rfl
      rw [List.take_append, hlen, List.take_of_length_le (by rw [hlen]; omega),
        show 5 * (k + 1) + phase - 5 = 5 * k + phase by omega, ih h, List.take_succ_cons, cells_cons,
        List.append_assoc]

/-- The levels inside a cell that was entered with the clock low (R46). -/
theorem replay_take_cellEvents (d : Level) (b : Bool) {phase : Nat} (h : phase < 5) :
    replay ⟨d, .low⟩ ((cellEvents b).take phase) =
      ⟨if phase = 0 then d else levelOf b, if phase = 2 ∨ phase = 3 then .high else .low⟩ := by
  match phase with
  | 0 | 1 | 2 | 3 | 4 => rfl
  | n + 5 => omega

/-- After whole cells the data line is at the last bit. -/
theorem replay_cells_take {bits : List Bool} {k : Nat} {b : Bool} (h : bits[k]? = some b) (p : Wires) :
    replay p (cells (bits.take (k + 1))) = ⟨levelOf b, .low⟩ := by
  rw [List.take_add_one, h, Option.toList_some, cells_append, replay_append]
  rfl

theorem getElem?_wireBits_frameOf (q : Scalar) (c : Colour) {k : Nat} (h : k < 96) :
    (wireBits (frameOf q c))[k]? = some (frameBit q c k) :=
  getElem?_wireBits (frameOf q c) h

/-- The levels in phase `phase` of cell `k` of a frame that began with both lines low. -/
theorem replay_take_frame (q : Scalar) (c : Colour) {k phase : Nat} (hk : k < 96) (hp : phase < 5) :
    replay ⟨.low, .low⟩ ((frameEvents (frameOf q c)).take (5 * k + phase)) =
      ⟨if phase = 0 then (if k = 0 then .low else levelOf (frameBit q c (k - 1))) else levelOf (frameBit q c k),
        if phase = 2 ∨ phase = 3 then .high else .low⟩ := by
  have hbefore : replay ⟨.low, .low⟩ (cells ((wireBits (frameOf q c)).take k)) =
      ⟨if k = 0 then .low else levelOf (frameBit q c (k - 1)), .low⟩ := by
    cases k with
    | zero => rfl
    | succ k => rw [replay_cells_take (getElem?_wireBits_frameOf q c (by omega))]; rfl
  have hlength : (cells (wireBits (frameOf q c))).length = 480 := by rw [length_cells, length_wireBits]; rfl
  rw [frameEvents_eq_cells, List.take_append_of_le_length (by omega),
    take_cells (getElem?_wireBits_frameOf q c hk) phase hp.le, replay_append, hbefore, replay_take_cellEvents _ _ hp]

theorem frameBit_last (q : Scalar) (c : Colour) : frameBit q c 95 = false := by
  simp [frameBit, frameOf, frameBytes]

theorem replay_take_latch (p : Wires) (n : Nat) : replay p ([Event.d .latch].take n) = p := by
  cases n <;> simp [wiresAfter]

/-- From the latch on both lines are low: the last bit of a frame is 0. -/
theorem replay_take_frame_end (q : Scalar) (c : Colour) {j : Nat} (hj : 480 ≤ j) :
    replay ⟨.low, .low⟩ ((frameEvents (frameOf q c)).take j) = ⟨.low, .low⟩ := by
  have hlength : (cells (wireBits (frameOf q c))).length = 480 := by rw [length_cells, length_wireBits]; rfl
  have hbits : (wireBits (frameOf q c)).take (95 + 1) = wireBits (frameOf q c) :=
    List.take_of_length_le (length_wireBits _).le
  have hcells : replay ⟨.low, .low⟩ (cells (wireBits (frameOf q c))) = ⟨.low, .low⟩ := by
    rw [← hbits, replay_cells_take (getElem?_wireBits_frameOf q c (by decide)), frameBit_last]
    rfl
  rw [frameEvents_eq_cells, List.take_append, List.take_of_length_le (by omega), replay_append, hcells]
  exact replay_take_latch _ _

/-! ### The cut -/

/-- The part of EMIT_PIXEL before the first byte. -/
def frameSetup (q : Scalar) (c : Colour) : List Micro :=
  [.setChR (channelByte q c.r), .setChG (channelByte q c.g), .setChB (channelByte q c.b), .setCtrl (ctrlOf q c)]

/-- The part of EMIT_PIXEL from the first byte on. -/
def frameBody (q : Scalar) (c : Colour) : List Micro :=
  (frameOf q c).flatMap sendByteScript ++ latchScript ++ [.reply .done]

theorem emitPixel_eq_parts (q : Scalar) (r g b : Int) :
    emitPixelScript q r g b ++ [.reply .done] = frameSetup q ⟨r, g, b⟩ ++ .startFrame :: frameBody q ⟨r, g, b⟩ := by
  simp only [emitPixelScript, frameScript, frameSetup, frameBody, List.append_assoc, List.cons_append, List.nil_append]
  rfl

theorem eventsOf_frameBody (q : Scalar) (c : Colour) : eventsOf (frameBody q c) = frameEvents (frameOf q c) := by
  have hframe := eventsOf_frameScript (frameOf q c)
  rw [frameScript, List.append_assoc, eventsOf_append] at hframe
  rw [frameBody, eventsOf_append, ← hframe]
  exact List.append_nil _

theorem sendByteLoop_movesSeqByEvent (n : Nat) (v : Byte) : (sendByteLoop n v).all movesSeqByEvent = true := by
  induction n generalizing v with
  | zero => rfl
  | succ n ih => rw [sendByteLoop, List.all_append, ih]; rfl

theorem frameBody_movesSeqByEvent (q : Scalar) (c : Colour) : (frameBody q c).all movesSeqByEvent = true := by
  have hbytes : ((frameOf q c).flatMap sendByteScript).all movesSeqByEvent = true := by
    rw [List.all_flatMap, List.all_eq_true]
    intro v _
    rw [sendByteScript, List.all_append, sendByteLoop_movesSeqByEvent]
    rfl
  rw [frameBody, List.all_append, List.all_append, hbytes]
  rfl

theorem movesSeqByEvent_take {ms : List Micro} (h : ms.all movesSeqByEvent = true) (n : Nat) :
    (ms.take n).all movesSeqByEvent = true := by
  rw [List.all_eq_true] at *
  exact fun m hm => h m (List.mem_of_mem_take hm)

/-- Before the first byte nothing has happened on the wire. -/
theorem frameSetup_cut (q : Scalar) (c : Colour) (n : Nat) {s : State} (h : atRest s) :
    atRest (run ((frameSetup q c).take n) s) := by
  obtain ⟨hseq, hd, hc⟩ := h
  have hevents : eventsOf ((frameSetup q c).take n) = [] :=
    List.prefix_nil.1 (eventsOf_take_prefix (frameSetup q c) n)
  have hmoves : (frameSetup q c).all movesSeqByEvent = true := rfl
  have hlines := wiresOf_run ((frameSetup q c).take n) s
  rw [hevents, replay_nil] at hlines
  refine ⟨?_, (congrArg Wires.data hlines).trans hd, (congrArg Wires.clk hlines).trans hc⟩
  rw [run_seq (movesSeqByEvent_take hmoves n), hevents]
  exact hseq

/-- From the first byte on, the events done are first events of the frame, and SEQ and the lines follow them. -/
theorem frameBody_cut (q : Scalar) (c : Colour) (m : Nat) {u : State} (hseq : u.seq = .cell 0 7 0)
    (hlow : wiresOf u = ⟨.low, .low⟩) :
    let t := run ((frameBody q c).take m) u
    ∃ j ≤ 481, t.seq = seqAdvance j (.cell 0 7 0) ∧
      wiresOf t = replay ⟨.low, .low⟩ ((frameEvents (frameOf q c)).take j) := by
  have hprefix := eventsOf_take_prefix (frameBody q c) m
  rw [eventsOf_frameBody] at hprefix
  refine ⟨_, hprefix.length_le.trans ?_, ?_, ?_⟩
  · rw [frameEvents_eq_cells, List.length_append, length_cells, length_wireBits]
    rfl
  · rw [run_seq (movesSeqByEvent_take (frameBody_movesSeqByEvent q c) m), hseq]
  · rw [wiresOf_run, hlow, ← List.prefix_iff_eq_take.1 hprefix]

/-- An EMIT_PIXEL from rest, cut anywhere: still at rest before its first byte, or with the first `j` events of its frame
done. -/
theorem emitPixel_cut (q : Scalar) (r g b : Int) (n : Nat) {s : State} (h : atRest s) :
    let t := run ((emitPixelScript q r g b ++ [Micro.reply .done]).take n) s
    atRest t ∨ ∃ j ≤ 481, t.seq = seqAdvance j (.cell 0 7 0) ∧
      wiresOf t = replay ⟨.low, .low⟩ ((frameEvents (frameOf q ⟨r, g, b⟩)).take j) := by
  rw [emitPixel_eq_parts, List.take_append]
  cases hm : n - (frameSetup q ⟨r, g, b⟩).length with
  | zero =>
    rw [List.take_zero, List.append_nil]
    exact .inl (frameSetup_cut q _ n h)
  | succ m =>
    obtain ⟨-, hd, hc⟩ := frameSetup_cut q ⟨r, g, b⟩ n h
    rw [List.take_succ_cons, run_append, run_cons, run_startFrame]
    exact .inr (frameBody_cut q _ m rfl (by rw [wiresOf, hd, hc]))

/-- Settles O20: by how many events of the frame are done. -/
theorem lineLevelsAtEveryCut : Obligations.LineLevelsAtEveryCut := by
  intro r g b s ms n hd hc hseq hplan
  obtain ⟨-, he⟩ := whenReady_ok hplan
  cases he
  obtain ⟨hseq', hd', hc'⟩ | ⟨j, hj, hseq', hwires⟩ := emitPixel_cut s.brightness r g b n ⟨hseq, hd, hc⟩
  · simp only [hseq']
    exact ⟨hd', hc'⟩
  obtain hlt | hge := Nat.lt_or_ge j 480
  · have hcell := replay_take_frame s.brightness ⟨r, g, b⟩ (k := j / 5) (phase := j % 5) (by omega) (by omega)
    rw [Nat.div_add_mod, ← hwires] at hcell
    have hdata := congrArg Wires.data hcell
    have hclk := congrArg Wires.clk hcell
    have hk : 8 * (j / 40) + (7 - (7 - j / 5 % 8)) = j / 5 := by omega
    rw [seqAdvance_cell hlt] at hseq'
    simp only [hseq', hk, ne_eq, Fin.ext_iff]
    exact ⟨hclk, fun hphase => hdata.trans (if_neg hphase), fun hphase => hdata.trans (if_pos hphase)⟩
  · have hlow := replay_take_frame_end s.brightness ⟨r, g, b⟩ hge
    rw [← hwires] at hlow
    obtain rfl | rfl : j = 480 ∨ j = 481 := by omega
    · rw [seqAdvance_frame] at hseq'
      simp only [hseq']
      exact ⟨congrArg Wires.data hlow, congrArg Wires.clk hlow⟩
    · rw [seqAdvance_succ, seqAdvance_frame] at hseq'
      simp only [hseq']
      exact ⟨congrArg Wires.data hlow, congrArg Wires.clk hlow⟩

end Sys2Proof.Machine

/-! The driver operations (41_driver_ops.md): an equation for each in the states where it has a meaning, the refusals, and what each
answers the host. -/

namespace Sys2Proof.Machine

/-! ### INIT -/

theorem exec_init_not_unbuilt (p q : Int) (x : Scalar) {s : State} (h : s.lifecycle ≠ .unbuilt) :
    exec (.init p q x) s = .refused .alreadyConstructed := by
  rw [exec_eq_perform, planOf, planInit, if_pos h, perform_error]

theorem exec_init_samePin (p : Int) (x : Scalar) {s : State} (h : s.lifecycle = .unbuilt) :
    exec (.init p p x) s = .refused .samePin := by
  rw [exec_eq_perform, planOf, planInit, if_neg (not_not.2 h), if_pos rfl, perform_error]

theorem planInit_granted {p q : Int} (x : Scalar) {s : State} (h : s.lifecycle = .unbuilt) (hpq : p ≠ q)
    (hg : pinsGranted p q s = true) : planInit p q x s = .ok (initScript p q x) := by
  rw [planInit, if_neg (not_not.2 h), if_neg hpq, if_pos hg]

theorem planInit_not_granted {p q : Int} (x : Scalar) {s : State} (h : s.lifecycle = .unbuilt) (hpq : p ≠ q)
    (hg : pinsGranted p q s = false) : planInit p q x s = .ok [.raiseEInit] := by
  rw [planInit, if_neg (not_not.2 h), if_neg hpq, hg, if_neg Bool.false_ne_true]

theorem exec_init_granted {p q : Int} (x : Scalar) {s : State} (h : s.lifecycle = .unbuilt) (hpq : p ≠ q)
    (hg : pinsGranted p q s = true) : exec (.init p q x) s = .next (run (initScript p q x) s) := by
  rw [exec_eq_perform, planOf, planInit_granted x h hpq hg, perform_ok]

theorem exec_init_not_granted {p q : Int} (x : Scalar) {s : State} (h : s.lifecycle = .unbuilt) (hpq : p ≠ q)
    (hg : pinsGranted p q s = false) : exec (.init p q x) s = .next (takeEInit s) := by
  rw [exec_eq_perform, planOf, planInit_not_granted x h hpq hg, perform_ok, run_raiseEInit]

/-- When pin set-up fails (R81). -/
theorem pinsGranted_eq_false {p q : Int} {s : State} :
    pinsGranted p q s = false ↔ s.pinSetupOk = false ∨ pinIn p s.validPins = false ∨ pinIn q s.validPins = false := by
  rw [pinsGranted, Bool.and_eq_false_iff, Bool.and_eq_false_iff, or_assoc]

/-- Settles O22: the equations of INIT, one for each outcome of its tests. -/
theorem initConstructsTheDriver : Obligations.InitConstructsTheDriver := by
  intro p q x s
  refine ⟨exec_init_not_unbuilt p q x, fun h hpq => ?samePin, fun h hpq hok hp hq => ?granted, fun h hpq hfail => ?fails⟩
  case samePin => subst hpq; exact exec_init_samePin p x h
  case granted =>
    have hg : pinsGranted p q s = true := by rw [pinsGranted, hok, hp, hq]; rfl
    refine ⟨_, exec_init_granted x h hpq hg, ?_, ?_⟩ <;> rw [run_initScript]
    · simp only [← clampBrightness_eq_max_min, emitted, frameOf_black, List.append_assoc]
      rfl
    · exact le_refl _
  case fails => exact ⟨_, exec_init_not_granted x h hpq (pinsGranted_eq_false.2 hfail), rfl, rfl, rfl⟩

/-! ### CLEANUP -/

theorem exec_cleanup (s : State) : exec .cleanup s = .next { run (cleanupScript s) s with reply := .done } := by
  rw [exec_eq_perform, planOf, planCleanup, perform_ok, run_reply_last]

theorem exec_cleanup_not_ready {s : State} (h : s.lifecycle ≠ .ready) :
    exec .cleanup s = .next { s with reply := .done } := by
  rw [exec_cleanup, run_cleanupScript_not_ready s h]

/-- In RELEASED and FAILED nothing but CLEANUP has a meaning (R134). -/
theorem exec_refused_of_over {i : Instr} {s : State} (hi : i ≠ .cleanup) (hr : s.lifecycle ≠ .ready)
    (hu : s.lifecycle ≠ .unbuilt) : ∃ r, exec i s = .refused r := by
  rw [exec_eq_perform]
  obtain ⟨ms, hplan, -⟩ | ⟨r, -, hrefused⟩ := perform_cases (planOf i s) s
  · exact absurd (ready_of_planOf hplan hi hu) hr
  · exact ⟨r, hrefused⟩

/-- Settles O23: taking E_INIT, and what FAILED admits. -/
theorem initFailureIsFatal : Obligations.InitFailureIsFatal := by
  intro p q x s h hpq hg
  obtain ⟨h0, h1⟩ := clampBrightness_legal (Config.freeScalar s.draws)
  have hfailed : (takeEInit s).lifecycle = .failed := rfl
  exact ⟨_, exec_init_not_granted x h hpq hg, rfl, rfl, rfl, rfl, rfl, rfl, rfl, rfl, rfl, rfl, rfl, rfl, rfl, h0, h1,
    exec_cleanup_not_ready (by simp), fun i hi => exec_refused_of_over hi (by simp) (by simp)⟩

/-- Settles O30: the script of CLEANUP in READY, run whole. -/
theorem cleanupBlacksOutAndReleases : Obligations.CleanupBlacksOutAndReleases := by
  intro s h
  refine ⟨_, exec_cleanup s, ?_, by rw [run_cleanupScript s h]⟩
  rw [run_cleanupScript s h]
  rfl

/-- Settles O31: what CLEANUP leaves is not READY, and there it changes the reply alone. -/
theorem repeatedCleanupDoesNothing : Obligations.RepeatedCleanupDoesNothing := by
  intro s
  refine ⟨exec_cleanup_not_ready, fun t h => ?_, fun i t hl h => ?_⟩
  · rw [exec_cleanup] at h
    cases h
    exact exec_cleanup_not_ready (s := { run (cleanupScript s) s with reply := .done }) (cleanup_not_ready s)
  · obtain rfl : i = .cleanup := by
      by_contra hi
      obtain ⟨r, hrefused⟩ := exec_refused_of_over (s := s) hi (by simp [hl]) (by simp [hl])
      rw [h] at hrefused
      cases hrefused
    rw [exec_cleanup_not_ready (by simp [hl])] at h
    cases h
    exact ⟨rfl, hl⟩

/-! ### SET_COLOR, SET_COLOR_HEX, CLEAR, GET_STATUS -/

theorem indexValid_iff {index ledCount : Int} : indexValid index ledCount = true ↔ 0 ≤ index ∧ index < ledCount := by
  simp [indexValid]

theorem indexValid_eq_false {index ledCount : Int} : indexValid index ledCount = false ↔ index < 0 ∨ ledCount ≤ index := by
  rw [← Bool.not_eq_true, indexValid_iff]
  omega

theorem exec_setColor_valid (r g b : Int) {index : Int} {s : State} (h : s.lifecycle = .ready)
    (hi : indexValid index s.ledCount = true) :
    exec (.setColor r g b index) s = .next { emitted s.brightness ⟨r, g, b⟩ s with reply := .bool true } := by
  rw [exec_setColor_ready r g b index h, setColorScript, hi, if_pos rfl, run_emitPixelScript]

theorem exec_setColor_invalid (r g b : Int) {index : Int} {s : State} (h : s.lifecycle = .ready)
    (hi : indexValid index s.ledCount = false) :
    exec (.setColor r g b index) s = .next { s with reply := .bool false } := by
  rw [exec_setColor_ready r g b index h, setColorScript_invalid hi, hi, run_nil]

/-- Settles O26: by the index test. -/
theorem setColorValidatesItsIndex : Obligations.SetColorValidatesItsIndex := by
  intro r g b index s h
  refine ⟨fun h0 h1 => ?_, fun hbad => exec_setColor_invalid r g b h (indexValid_eq_false.2 hbad), fun hone => by omega⟩
  exact ⟨_, exec_emitPixel_ready r g b h, exec_setColor_valid r g b h (indexValid_iff.2 ⟨h0, h1⟩)⟩

theorem exec_setColorHex_malformed {str : List Char} {s : State} (h : s.lifecycle = .ready) (hp : parseHex str = none) :
    exec (.setColorHex str) s = .next { s with reply := .done } := by
  rw [exec_eq_perform, planOf, planSetColorHex, whenReady_ready h, perform_ok, run_reply_last, setColorHexScript, hp,
    run_nil]

theorem exec_setColorHex_wellFormed {str : List Char} {c : Colour} {s : State} (h : s.lifecycle = .ready)
    (hp : parseHex str = some c) :
    exec (.setColorHex str) s =
      .next { run (setColorScript s.ledCount s.brightness c.r c.g c.b 0) s with reply := .done } := by
  rw [exec_eq_perform, planOf, planSetColorHex, whenReady_ready h, perform_ok, run_reply_last, setColorHexScript, hp]

/-- Settles O27: both run the script of SET_COLOR at index 0; the channels are pairs of digits. -/
theorem setColorHexSendsOrIgnores : Obligations.SetColorHexSendsOrIgnores := by
  intro str s h
  refine ⟨exec_setColorHex_malformed h, fun c hp => ?_⟩
  obtain ⟨c0, c1, c2, c3, c4, c5, -, hr, hg, hb⟩ := parseHex_eq_some.1 hp
  obtain ⟨hr0, hr1⟩ := hexPair_range hr
  obtain ⟨hg0, hg1⟩ := hexPair_range hg
  obtain ⟨hb0, hb1⟩ := hexPair_range hb
  exact ⟨hr0, hr1, hg0, hg1, hb0, hb1, _, exec_setColor_ready c.r c.g c.b 0 h, exec_setColorHex_wellFormed h hp⟩

/-- Settles O28: CLEAR is that EMIT_PIXEL, and the channels, the control byte and the frame of black do not depend on
BRIGHTNESS. -/
theorem clearSendsTheBlackFrame : Obligations.ClearSendsTheBlackFrame := by
  intro s h
  have hframe : frameOf s.brightness ⟨0, 0, 0⟩ = blackBytes := frameOf_black s.brightness
  have hctrl : ctrlOf s.brightness ⟨0, 0, 0⟩ = 0xFF := ctrlOf_black s.brightness
  have hclear : exec .clear s = exec (.emitPixel 0 0 0) s := rfl
  rw [hclear, exec_emitPixel_ready 0 0 0 h]
  refine ⟨_, rfl, rfl, ?_, le_refl _⟩
  simp only [emitted, channelByte_zero, hframe, hctrl]
  rfl

/-- Settles O29: the equation of GET_STATUS, used twice. -/
theorem getStatusIsAReadOnlySnapshot : Obligations.GetStatusIsAReadOnlySnapshot := by
  intro s h
  refine ⟨_, exec_getStatus_ready h, rfl, exec_getStatus_ready (s := { s with reply := .status (snapshot s) }) h,
    fun hinv => ?_⟩
  obtain ⟨hled, hmode, -⟩ := hinv
  exact ⟨hled, hmode⟩

/-! ### What the host gets back -/

/-- What an operation that the host can issue leaves in the reply when it completes (R56, R121); the three others leave it
alone. -/
def replyOf (i : Instr) (s : State) : Reply :=
  match i with
  | .sendBit _ | .sendByte _ | .latch => s.reply
  | .init p q _ => if pinsGranted p q s then .done else .raised .eInit
  | .setBrightness x => .scalar (clampBrightness x)
  | .setColor _ _ _ index => .bool (indexValid index s.ledCount)
  | .getStatus => .status (snapshot s)
  | _ => .done

theorem reply_of_run_last (ms : List Micro) (r : Reply) (s : State) : (run (ms ++ [.reply r]) s).reply = r := by
  rw [run_reply_last]

theorem reply_of_isWire {ms : List Micro} (h : ms.all isWire = true) (s : State) : (run ms s).reply = s.reply := by
  obtain ⟨-, -, -, -, -, -, -, -, -, -, hreply, -⟩ := run_sameOffWire ms h s
  exact hreply

theorem reply_of_exec {i : Instr} {s t : State} (h : exec i s = .next t) : t.reply = replyOf i s := by
  obtain ⟨ms, hplan, rfl⟩ := exec_next h
  cases i with
  | sendBit b => obtain ⟨-, he⟩ := whenReady_ok hplan; cases he; exact reply_of_isWire rfl s
  | sendByte v => obtain ⟨-, he⟩ := whenReady_ok hplan; cases he; exact reply_of_isWire (sendByteScript_isWire v) s
  | latch => obtain ⟨-, he⟩ := whenReady_ok hplan; cases he; exact reply_of_isWire rfl s
  | init p q x =>
    obtain ⟨-, -, ⟨hg, rfl⟩ | ⟨hg, rfl⟩⟩ := planInit_ok hplan
    · rw [run_initScript, replyOf, hg]; rfl
    · rw [run_raiseEInit, replyOf, hg]; rfl
  | cleanup => cases hplan; exact reply_of_run_last _ _ s
  | setBrightness x =>
    obtain ⟨-, he⟩ := whenReady_ok hplan; cases he
    exact reply_of_run_last [.setBrightness (clampBrightness x)] _ s
  | getStatus => obtain ⟨-, he⟩ := whenReady_ok hplan; cases he; exact reply_of_run_last [] _ s
  | emitPixel | setColor | setColorHex | clear =>
    obtain ⟨-, he⟩ := whenReady_ok hplan; cases he; exact reply_of_run_last _ _ s
  | demoSequence | breathingEffect | rainbow | policeLights =>
    obtain ⟨-, he⟩ := whenReady_ok hplan; cases whenTimes_ok he; exact reply_of_run_last _ _ s
  | fadeBetweenColors =>
    obtain ⟨-, he⟩ := whenReady_ok hplan
    split at he
    · cases he
    · cases whenTimes_ok he; exact reply_of_run_last _ _ s

/-- Settles O24: of all replies only that of an INIT is an exception. -/
theorem onlyAFailedInitRaises : Obligations.OnlyAFailedInitRaises := by
  intro i s t e h ht
  rw [reply_of_exec h] at ht
  cases i with
  | sendBit | sendByte | latch => exact .inr ⟨rfl, ht⟩
  | init p q x =>
    obtain ⟨ms, hplan, -⟩ := exec_next h
    cases hg : pinsGranted p q s with
    | true => rw [replyOf, hg] at ht; cases ht
    | false =>
      rw [replyOf, hg] at ht
      cases ht
      obtain ⟨hunbuilt, -⟩ := planInit_ok hplan
      exact .inl ⟨rfl, p, q, x, rfl, hunbuilt, hg⟩
  | _ => cases ht

end Sys2Proof.Machine

/-! The effects (42_effects.md R100 to R109): an equation for each in READY, the colours of its loop counted and indexed, and
the domains outside which it is refused. -/

namespace Sys2Proof.Machine

/-! ### The domains -/

theorem whenTimes_of_nonneg {ts : List Scalar} (h : ∀ t ∈ ts, 0 ≤ t) (p : Plan) : whenTimes ts p = p := by
  have hall : ts.all (fun t => decide (0 ≤ t)) = true := by simpa using h
  rw [whenTimes, if_pos hall]

theorem whenTimes_of_neg {ts : List Scalar} (h : ∃ t ∈ ts, t < 0) (p : Plan) :
    whenTimes ts p = .error .negativeTime := by
  have hall : ¬ ts.all (fun t => decide (0 ≤ t)) = true := by simpa using h
  rw [whenTimes, if_neg hall]

theorem perform_whenTimes_refused {ts : List Scalar} {ms : List Micro} {s : State} :
    perform (whenTimes ts (.ok ms)) s = .refused .negativeTime ↔ ∃ t ∈ ts, t < 0 := by
  constructor
  · intro h
    by_contra hneg
    push Not at hneg
    rw [whenTimes_of_nonneg hneg] at h
    cases h
  · intro h
    rw [whenTimes_of_neg h, perform_error]

theorem exec_fade_no_step (c1 c2 : Colour) {steps : Int} (duration : Scalar) {s : State} (h : s.lifecycle = .ready)
    (hs : steps < 1) : exec (.fadeBetweenColors c1 c2 steps duration) s = .refused .stepsBelowOne := by
  rw [exec_eq_perform, planOf, planFadeBetweenColors, whenReady_ready h, if_pos hs, perform_error]

theorem exec_fade_steps (c1 c2 : Colour) {steps : Int} (duration : Scalar) {s : State} (h : s.lifecycle = .ready)
    (hs : 1 ≤ steps) :
    exec (.fadeBetweenColors c1 c2 steps duration) s =
      perform (whenTimes [duration] (.ok (fadeScript s.brightness c1 c2 steps duration ++ [.reply .done]))) s := by
  rw [exec_eq_perform, planOf, planFadeBetweenColors, whenReady_ready h, if_neg (by omega)]

/-- Settles O37: in READY the test of the times gives the reason, and that of the steps before it. -/
theorem effectDomains : Obligations.EffectDomains := by
  intro s h
  refine ⟨fun delay => ?_, fun r g b cycles duration => ?_, fun cycles speed => ?_, fun duration speed => ?_,
    fun c1 c2 steps duration => ?_, fun c1 c2 steps duration => ?_⟩
  · rw [exec_eq_perform, planOf, planDemoSequence, whenReady_ready h, perform_whenTimes_refused]
    simp
  · rw [exec_eq_perform, planOf, planBreathingEffect, whenReady_ready h, perform_whenTimes_refused]
    simp
  · rw [exec_eq_perform, planOf, planRainbow, whenReady_ready h, perform_whenTimes_refused]
    simp
  · rw [exec_eq_perform, planOf, planPoliceLights, whenReady_ready h, perform_whenTimes_refused]
    simp
  · refine ⟨fun hr => ?_, exec_fade_no_step c1 c2 duration h⟩
    by_contra hs
    rw [exec_fade_steps c1 c2 duration h (by omega)] at hr
    obtain hd | hd := lt_or_ge duration 0
    · rw [whenTimes_of_neg (by simpa using hd)] at hr; cases hr
    · rw [whenTimes_of_nonneg (by simpa using hd)] at hr; cases hr
  · obtain hs | hs : steps < 1 ∨ 1 ≤ steps := by omega
    · rw [exec_fade_no_step c1 c2 duration h hs]
      refine ⟨fun hr => (by cases hr), fun hr => absurd hr.1 (by omega)⟩
    · rw [exec_fade_steps c1 c2 duration h hs, perform_whenTimes_refused]
      simp [hs]

/-! ### DEMO_SEQUENCE -/

theorem exec_demoSequence_ready {delay : Scalar} {s : State} (h : s.lifecycle = .ready) (hd : 0 ≤ delay) :
    exec (.demoSequence delay) s = .next { run (demoScript s.brightness delay) s with reply := .done } := by
  rw [exec_eq_perform, planOf, planDemoSequence, whenReady_ready h, whenTimes_of_nonneg (by simpa using hd), perform_ok,
    run_reply_last]

/-- The loop over the palette and the clear after it (R103), `t` standing for the state they lead to. -/
theorem demoScript_done {q d : Scalar} {s t : State} (ht : t = run (demoScript q d) s) :
    sameControl s t ∧ t.draws = s.draws ∧
      t.trace = s.trace ++ (emissionsThenWaits q d palette ++ frameEvents blackBytes) ∧
      s.clock + (10 * emissionTime + 9 * d) ≤ t.clock ∧ wireAfter q (some black) s t := by
  rw [demoScript] at ht
  subst ht
  obtain ⟨hcontrol, hdraws, -, htrace, hclock, hwire⟩ := run_emissions_clear q d palette s
  have hlength : ((palette.length : Nat) : Scalar) = 9 := by norm_num [palette]
  rw [hlength, show (9 : Scalar) + 1 = 10 by norm_num] at hclock
  exact ⟨hcontrol, hdraws, htrace, hclock, hwire⟩

/-- Settles O32: by the equation of the operation and what its script leaves. -/
theorem demoSequenceRunsThePalette : Obligations.DemoSequenceRunsThePalette := by
  intro delay s h hd
  have hexec := exec_demoSequence_ready h hd
  obtain ⟨t, ht⟩ : ∃ t, t = run (demoScript s.brightness delay) s := ⟨_, rfl⟩
  obtain ⟨hcontrol, hdraws, htrace, hclock, hwire⟩ := demoScript_done ht
  rw [← ht] at hexec
  exact ⟨{ t with reply := .done }, hexec, hcontrol, hdraws, rfl, htrace, hclock, hwire⟩

/-! ### Loops that are repeated -/

/-- A cycle repeated: position `m` cycles and `k` on is position `k` of the cycle. -/
theorem getElem?_flatten_replicate {α : Type} (l : List α) {n m k : Nat} (hm : m < n) (hk : k < l.length) :
    (List.replicate n l).flatten[l.length * m + k]? = l[k]? := by
  induction n generalizing m with
  | zero => exact absurd hm (Nat.not_lt_zero m)
  | succ n ih =>
    rw [List.replicate_succ, List.flatten_cons]
    cases m with
    | zero => rw [Nat.mul_zero, Nat.zero_add, List.getElem?_append_left hk]
    | succ m =>
      have hge : l.length ≤ l.length * (m + 1) + k := by rw [Nat.mul_succ]; omega
      have hsub : l.length * (m + 1) + k - l.length = l.length * m + k := by rw [Nat.mul_succ]; omega
      rw [List.getElem?_append_right hge, hsub, ih (by omega)]

theorem length_flatten_replicate {α : Type} (l : List α) (n : Nat) :
    (List.replicate n l).flatten.length = l.length * n := by
  rw [List.length_flatten, List.map_replicate, List.sum_replicate, smul_eq_mul, Nat.mul_comm]

/-- The loop of an effect and its return. -/
theorem emissionsDone_reply (q d : Scalar) (cs : List Colour) (s : State) :
    emissionsDone q d cs s { run (cs.flatMap (emitAndWait q d)) s with reply := .done } :=
  (run_emissions q d cs s).1

/-! ### BREATHING_EFFECT -/

theorem length_breathSteps : breathSteps.length = 101 := rfl

theorem getElem?_breathSteps : ∀ k < 101, breathSteps[k]? = some (if k ≤ 49 then k else 100 - k) := by
  decide

/-- Settles O33: the loop over the colours of the cycles. -/
theorem breathingEffectRampsUpAndDown : Obligations.BreathingEffectRampsUpAndDown := by
  intro r g b cycles duration s h hd
  refine ⟨breathColours ⟨r, g, b⟩ cycles, _, ?_, ?_, fun m k hm hk => ?_, rfl, emissionsDone_reply _ _ _ s⟩
  · rw [exec_eq_perform, planOf, planBreathingEffect, whenReady_ready h, whenTimes_of_nonneg (by simpa using hd),
      perform_ok, run_reply_last, breathScript]
  · rw [breathColours, List.length_map, length_flatten_replicate, length_breathSteps]
  · have hstep := getElem?_flatten_replicate breathSteps hm (hk.trans_eq length_breathSteps.symm)
    rw [length_breathSteps, getElem?_breathSteps k hk] at hstep
    rw [breathColours, List.getElem?_map, hstep]
    rfl

/-! ### RAINBOW -/

/-- Settles O34: at LED_COUNT 1 every index test passes, so RAINBOW is the loop over WHEEL. -/
theorem rainbowSweepsTheWheel : Obligations.RainbowSweepsTheWheel := by
  intro cycles speed s h hled hs
  refine ⟨rainbowColours cycles, _, ?_, ?_, fun m k hm hk => ?_, rfl, emissionsDone_reply _ _ _ s⟩
  · rw [exec_eq_perform, planOf, planRainbow, whenReady_ready h, whenTimes_of_nonneg (by simpa using hs), perform_ok,
      run_reply_last, hled, rainbowScript_one]
  · rw [rainbowColours, List.length_map, length_flatten_replicate, List.length_range]
  · have hstep := getElem?_flatten_replicate (List.range 256) hm (hk.trans_eq List.length_range.symm)
    rw [List.length_range, List.getElem?_range hk] at hstep
    rw [rainbowColours, List.getElem?_map, hstep]
    rfl

/-! ### FADE_BETWEEN_COLORS -/

theorem fadeChannel_zero (a b : Int) : fadeChannel a b 0 = a := by
  rw [fadeChannel, mul_zero, add_zero, Int.floor_intCast]

theorem fadeChannel_one (a b : Int) : fadeChannel a b 1 = b := by
  rw [fadeChannel, mul_one, add_sub_cancel, Int.floor_intCast]

theorem length_fadeColours (c1 c2 : Colour) (steps : Int) : (fadeColours c1 c2 steps).length = steps.toNat + 1 := by
  rw [fadeColours, List.length_map, List.length_range]

theorem getElem?_fadeColours (c1 c2 : Colour) (steps : Int) {k : Nat} (hk : k ≤ steps.toNat) :
    (fadeColours c1 c2 steps)[k]? =
      some ⟨fadeChannel c1.r c2.r ((k : Scalar) / steps), fadeChannel c1.g c2.g ((k : Scalar) / steps),
        fadeChannel c1.b c2.b ((k : Scalar) / steps)⟩ := by
  rw [fadeColours, List.getElem?_map, List.getElem?_range (Nat.lt_succ_of_le hk)]
  rfl

theorem head?_fadeColours (c1 c2 : Colour) (steps : Int) : (fadeColours c1 c2 steps).head? = some c1 := by
  rw [List.head?_eq_getElem?, getElem?_fadeColours c1 c2 steps (Nat.zero_le _), Nat.cast_zero, zero_div]
  simp only [fadeChannel_zero]

theorem getLast?_fadeColours (c1 c2 : Colour) {steps : Int} (h : 1 ≤ steps) :
    (fadeColours c1 c2 steps).getLast? = some c2 := by
  have hcast : ((steps.toNat : Nat) : Scalar) = (steps : Scalar) := by
    exact_mod_cast Int.toNat_of_nonneg (by omega : 0 ≤ steps)
  have hne : (steps : Scalar) ≠ 0 := by exact_mod_cast (by omega : steps ≠ 0)
  rw [List.getLast?_eq_getElem?, length_fadeColours, Nat.add_sub_cancel,
    getElem?_fadeColours c1 c2 steps (le_refl _), hcast, div_self hne]
  simp only [fadeChannel_one]

/-- Settles O36: the loop over the colours at the ratios 0 to 1. -/
theorem fadeInterpolatesBetweenColours : Obligations.FadeInterpolatesBetweenColours := by
  intro c1 c2 steps duration s h hs hd
  refine ⟨fadeColours c1 c2 steps, _, ?_, length_fadeColours c1 c2 steps, fun k hk => getElem?_fadeColours c1 c2 steps hk,
    head?_fadeColours c1 c2 steps, getLast?_fadeColours c1 c2 hs, rfl, emissionsDone_reply _ _ _ s⟩
  rw [exec_fade_steps c1 c2 duration h hs, whenTimes_of_nonneg (by simpa using hd), perform_ok, run_reply_last,
    fadeScript]

/-! ### POLICE_LIGHTS -/

/-- The pairs before a check have used up their waits (R107, R156). -/
theorem checkElapsed_ge (speed : Scalar) (n k : Nat) : (k : Scalar) * (2 * speed + 1 / 10) ≤ checkElapsed speed n k := by
  have htime := emissionTime_nonneg
  induction k with
  | zero =>
    rw [Nat.cast_zero, zero_mul]
    exact lag_nonneg n
  | succ k ih =>
    have hlag := lag_nonneg (n + (k + 1))
    rw [checkElapsed, pairTime]
    push_cast
    linarith

/-- Settles O35: the loop from the first reading on; the bounds are those of the last check that let a pair begin. -/
theorem policeLightsRunUntilTheDuration : Obligations.PoliceLightsRunUntilTheDuration := by
  intro duration speed s h hd hs
  have hexec : exec (.policeLights duration speed) s =
      .next { run (policeScript duration speed s) s with reply := .done } := by
    rw [exec_eq_perform, planOf, planPoliceLights, whenReady_ready h, whenTimes_of_nonneg (by simp [hd, hs]), perform_ok,
      run_reply_last]
  rw [policeScript, run_cons, run_readClock] at hexec
  obtain ⟨n, hbefore, hafter, hclock, hdraws, htrace, hcontrol, -, hwire⟩ :=
    policeLoop_reads_past_duration duration speed (s.clock + Config.lag s.draws) (policeBound duration speed)
      { s with clock := s.clock + Config.lag s.draws, draws := s.draws + 1 }
      (by have := policeBound_enough duration speed hs; simpa using this)
  simp only [add_sub_cancel_left] at hbefore hafter
  refine ⟨n, _, hexec, hbefore, hafter, htrace, hclock.ge, ?_, rfl, hcontrol, hwire, fun hn => ?_, fun hzero => ?_⟩
  · rw [hdraws]; dsimp only; omega
  · obtain ⟨k, rfl⟩ : ∃ k, n = k + 1 := ⟨n - 1, by omega⟩
    have hlast := (checkElapsed_ge speed (s.draws + 1) k).trans_lt (hbefore k (Nat.lt_succ_self k))
    rwa [Nat.cast_succ, add_sub_cancel_right]
  · by_contra hn
    have hfirst : Config.lag (s.draws + 1) < duration := hbefore 0 (by omega)
    have hlag := lag_nonneg (s.draws + 1)
    linarith

/-! ### Effects that can be run again -/

/-- The plan of an untimed effect reads BRIGHTNESS and LED_COUNT alone (R109). -/
theorem planOf_untimed_eq {i : Instr} {s s' : State} (hi : isUntimedEffect i = true) (h : s.lifecycle = .ready)
    (h' : s'.lifecycle = .ready) (hled : s.ledCount = s'.ledCount) (hb : s.brightness = s'.brightness) :
    planOf i s = planOf i s' := by
  cases i with
  | demoSequence delay =>
    simp only [planOf, planDemoSequence, whenReady_ready h, whenReady_ready h', hb]
  | breathingEffect r g b cycles duration =>
    simp only [planOf, planBreathingEffect, whenReady_ready h, whenReady_ready h', hb]
  | rainbow cycles speed =>
    simp only [planOf, planRainbow, whenReady_ready h, whenReady_ready h', hb, hled]
  | fadeBetweenColors c1 c2 steps duration =>
    simp only [planOf, planFadeBetweenColors, whenReady_ready h, whenReady_ready h', hb]
  | _ => cases hi

/-- Settles O38: the two plans are the same list. -/
theorem effectsAreRestartable : Obligations.EffectsAreRestartable := by
  intro i s s' t hi h h' hled hb hexec
  obtain ⟨ms, hplan, rfl⟩ := exec_next hexec
  refine ⟨run ms s', eventsOf ms, ?_, run_trace ms s, run_trace ms s'⟩
  rw [exec_eq_perform, ← planOf_untimed_eq hi h h' hled hb, hplan, perform_ok]

end Sys2Proof.Machine

/-! Lifecycle, TERMINATE and the step (60_exceptions.md R128 to R135): which operation is admitted where, what a step does with
each kind of input, and the teardown between two operations, inside one and at the end of the run. -/

namespace Sys2Proof.Machine

/-! ### The lifecycle -/

theorem planOf_not_ready {i : Instr} {s : State} (h : s.lifecycle ≠ .ready) (hi : i ≠ .cleanup)
    (hinit : ∀ p q x, i ≠ .init p q x) : planOf i s = .error .notReady := by
  cases i with
  | init p q x => exact absurd rfl (hinit p q x)
  | cleanup => exact absurd rfl hi
  | _ => exact whenReady_notReady h _

theorem run_cleanupScript_lifecycle (s : State) :
    (run (cleanupScript s) s).lifecycle = if s.lifecycle = .ready then .released else s.lifecycle := by
  split
  case isTrue h => rw [run_cleanupScript s h]
  case isFalse h => rw [run_cleanupScript_not_ready s h]

theorem teardown_lifecycle (s : State) :
    (teardown s).lifecycle = if s.lifecycle = .ready then .released else s.lifecycle :=
  run_cleanupScript_lifecycle s

theorem lifecycleMoves_unbuilt (l : Lifecycle) : lifecycleMoves .unbuilt l = true := rfl

theorem lifecycleMoves_refl (l : Lifecycle) : lifecycleMoves l l = true := by
  cases l <;> rfl

theorem lifecycleMoves_cleanup (l : Lifecycle) : lifecycleMoves l (if l = .ready then .released else l) = true := by
  cases l <;> rfl

theorem lifecycle_of_exec_ready {i : Instr} {s t : State} (h : exec i s = .next t) (hi : i ≠ .cleanup)
    (hready : s.lifecycle = .ready) : t.lifecycle = .ready := by
  obtain ⟨ms, hplan, rfl⟩ := exec_next h
  obtain ⟨hl, -⟩ := run_take_of_ready hplan hi hready ms.length
  rwa [List.take_length] at hl

theorem lifecycleMoves_exec {i : Instr} {s t : State} (h : exec i s = .next t) :
    lifecycleMoves s.lifecycle t.lifecycle = true := by
  by_cases hi : i = .cleanup
  · subst hi
    rw [exec_cleanup] at h
    cases h
    simp only [run_cleanupScript_lifecycle, lifecycleMoves_cleanup]
  by_cases hu : s.lifecycle = .unbuilt
  · rw [hu, lifecycleMoves_unbuilt]
  · obtain ⟨ms, hplan, -⟩ := exec_next h
    have hready := ready_of_planOf hplan hi hu
    rw [hready, lifecycle_of_exec_ready h hi hready]
    rfl

theorem lifecycleMoves_teardown (s : State) : lifecycleMoves s.lifecycle (teardown s).lifecycle = true := by
  rw [teardown_lifecycle, lifecycleMoves_cleanup]

theorem lifecycleMoves_step {s t : State} (h : step s = .next t) : lifecycleMoves s.lifecycle t.lifecycle = true := by
  obtain rfl | ⟨-, input, rest, -, hserved⟩ := step_next h
  · exact lifecycleMoves_refl _
  obtain ⟨c, i, -, -, hexec⟩ | ⟨c, n, i, ms, -, -, hi, hplan, rfl⟩ | ⟨-, rfl⟩ := hserved
  · exact lifecycleMoves_exec (s := { s with inputs := rest }) hexec
  · by_cases hu : s.lifecycle = .unbuilt
    · rw [hu, lifecycleMoves_unbuilt]
    · have hready : s.lifecycle = .ready := ready_of_planOf (s := { s with inputs := rest }) hplan hi hu
      obtain ⟨hl, -⟩ := run_take_of_ready hplan hi hready n
      rw [teardown_lifecycle, hl, hready]
      rfl
  · exact lifecycleMoves_teardown { s with inputs := rest }

/-! ### The step on each kind of input -/

theorem step_command {s : State} {c : Command} {rest : List Input} {i : Instr} (hp : s.process = .running)
    (hi : s.inputs = .command c :: rest) (hd : decode c = .ok i) : step s = exec i { s with inputs := rest } := by
  rw [step_input hp hi, serve_command hd]

theorem step_terminate {s : State} {rest : List Input} (hp : s.process = .running)
    (hi : s.inputs = .terminate false :: rest) : step s = .next (teardown { s with inputs := rest }) := by
  rw [step_input hp hi]; rfl

theorem step_exit {s : State} {rest : List Input} (hp : s.process = .running)
    (hi : s.inputs = .exit false :: rest) : step s = .next (teardown { s with inputs := rest }) := by
  rw [step_input hp hi]; rfl

theorem step_commandCut {s : State} {c : Command} {n : Nat} {rest : List Input} {i : Instr} {ms : List Micro}
    (hp : s.process = .running) (hi : s.inputs = .commandCut c n false :: rest) (hd : decode c = .ok i)
    (hc : i ≠ .cleanup) (hplan : planOf i { s with inputs := rest } = .ok ms) :
    step s = .next (teardown (run (ms.take n) { s with inputs := rest })) := by
  rw [step_input hp hi, serve_commandCut hd hc hplan]

/-- Settles O39: by the shape of the plans, the lifecycle after CLEANUP and the moves of a step. -/
theorem lifecycleAdmitsOperations : Obligations.LifecycleAdmitsOperations := by
  refine ⟨fun i s h hi hinit => ?_, fun p q x s h => exec_init_not_unbuilt p q x h,
    fun s => ⟨_, exec_cleanup s, run_cleanupScript_lifecycle s⟩,
    fun i s t h hi hready => lifecycle_of_exec_ready h hi hready,
    fun s t h => lifecycleMoves_step h, fun s rest hp hi => ⟨_, step_terminate hp hi, rfl, teardown_lifecycle _⟩⟩
  rw [exec_eq_perform, planOf_not_ready h hi hinit, perform_error]

/-- Settles O46: serving decodes, and then runs or cuts the operation. -/
theorem stepRunsTheDecodedOperation : Obligations.StepRunsTheDecodedOperation := by
  intro s hp
  refine ⟨fun c rest i hi hd => step_command hp hi hd, fun c rest e hi hd => ?_, fun c n again rest e hi hd => ?_,
    fun c n again rest i r hi hd hr => ?_, fun hi => ?_⟩
  · rw [step_input hp hi]
    simp only [serve, hd]
  · rw [step_input hp hi]
    simp only [serve, hd]
  · rw [exec_eq_perform] at hr
    obtain ⟨ms, -, hnext⟩ | ⟨r', hplan, hrefused⟩ :=
      perform_cases (planOf i { s with inputs := rest }) { s with inputs := rest }
    · rw [hr] at hnext; cases hnext
    · rw [hr] at hrefused
      cases hrefused
      rw [step_input hp hi]
      simp only [serve, hd, cutAt, hplan]
  · simp only [step, stepInput, hp, hi]

/-- Settles O43: the refusal stands where CLEANUP is cut, and where the hook is. -/
theorem terminateDuringCleanupIsRefused : Obligations.TerminateDuringCleanupIsRefused := by
  intro s rest c n again hp
  refine ⟨fun hi hd => ?_, fun i t hi hd h => ?_, fun hi => ?_, fun hi => ?_⟩
  · rw [step_input hp hi]
    simp only [serve, hd, cutAt, planOf, planCleanup, if_true]
  · obtain ⟨ms, hplan, -⟩ := exec_next h
    rw [step_input hp hi]
    simp only [serve, hd, cutAt, hplan, takeTeardown, if_true, ite_self]
  · rw [step_input hp hi]; rfl
  · rw [step_input hp hi]; rfl

/-! ### The teardown between operations and at the end of the run -/

/-- Settles O40: the hook in READY and elsewhere. -/
theorem terminateRunsCleanup : Obligations.TerminateRunsCleanup := by
  intro s rest hp hi
  refine ⟨_, step_terminate hp hi, fun h => ?_, fun h => ?_⟩
  · rw [teardown_ready { s with inputs := rest } h]
    exact ⟨rfl, le_refl _⟩
  · rw [teardown_not_ready { s with inputs := rest } h]
    exact ⟨rfl, le_refl _⟩

theorem runFinished_teardown (s : State) : runFinished (teardown s) := by
  refine ⟨rfl, ?_⟩
  rw [teardown_lifecycle]
  cases s.lifecycle <;> simp

theorem eventsOf_cleanupScript_ready {s : State} (h : s.lifecycle = .ready) :
    eventsOf (cleanupScript s) = frameEvents blackBytes ++ [.release s.dataPin s.clockPin] := by
  have hframe : frameOf s.brightness ⟨0, 0, 0⟩ = blackBytes := frameOf_black s.brightness
  rw [cleanupScript, if_pos h, eventsOf_append, eventsOf_emitPixelScript, hframe]
  rfl

theorem eventsOf_cleanupScript_not_ready {s : State} (h : s.lifecycle ≠ .ready) : eventsOf (cleanupScript s) = [] := by
  rw [cleanupScript, if_neg h, eventsOf_nil]

/-- Settles O45: the hook at the end of the program; an exited machine takes no step. -/
theorem theRunEndsOnce : Obligations.TheRunEndsOnce := by
  refine ⟨fun s rest hp hi => ⟨_, step_exit hp hi, runFinished_teardown _, ?_⟩, fun s hp => ?_⟩
  · rw [teardown_trace]
    split
    case isTrue h => rw [eventsOf_cleanupScript_ready (s := { s with inputs := rest }) h]
    case isFalse h => rw [eventsOf_cleanupScript_not_ready (s := { s with inputs := rest }) h]
  · simp only [step, stepInput, hp]

/-! ### TERMINATE inside an operation -/

/-- An operation cut in READY: the events of the part done, then the handler's. -/
theorem trace_of_cut_ready {i : Instr} {s : State} {ms : List Micro} (h : planOf i s = .ok ms) (hi : i ≠ .cleanup)
    (hready : s.lifecycle = .ready) (n : Nat) :
    (teardown (run (ms.take n) s)).trace =
      s.trace ++ (eventsOf (ms.take n) ++ frameEvents blackBytes ++ [.release s.dataPin s.clockPin]) := by
  obtain ⟨hl, hp, hq, -⟩ := run_take_of_ready h hi hready n
  rw [teardown_trace, eventsOf_cleanupScript_ready hl, hp, hq, run_trace]
  simp only [List.append_assoc]

/-- Settles O41: the part done and the part left of the plan, and the hook on what the part done leaves. -/
theorem terminateAbandonsTheOperation : Obligations.TerminateAbandonsTheOperation := by
  intro s t rest c i n hp hi hd hc hready hexec
  obtain ⟨ms, hplan, rfl⟩ := exec_next hexec
  obtain ⟨hl, hpin, hclk, hb⟩ := run_take_of_ready hplan hc hready n
  refine ⟨_, eventsOf (ms.take n), eventsOf (ms.drop n), step_commandCut hp hi hd hc hplan, ?_,
    trace_of_cut_ready hplan hc hready n, ?_, ?_, ?_, ?_, rfl, rfl, rfl, ?_, ?_, ?_⟩
  · rw [run_trace, ← eventsOf_append, List.take_append_drop]
  · rw [teardown_ready _ hl]
  · rw [teardown_ready _ hl]
  · rw [teardown_ready _ hl]
  · rw [teardown_ready _ hl]
  · rw [teardown_dataPin]; exact hpin
  · rw [teardown_clockPin]; exact hclk
  · rw [teardown_brightness]; exact hb

/-- Settles O42: every count of the plan's events is that of some first part of it. -/
theorem terminateCanCutBetweenAnyTwoEvents : Obligations.TerminateCanCutBetweenAnyTwoEvents := by
  intro s t c i rest es k hp hready hd hc hexec htrace hk
  obtain ⟨ms, hplan, rfl⟩ := exec_next hexec
  obtain rfl : eventsOf ms = es := List.append_cancel_left htrace
  obtain ⟨n, hn⟩ := exists_take_eventsOf ms k hk
  refine ⟨n, _, step_commandCut (s := { s with inputs := .commandCut c n false :: rest }) hp rfl hd hc hplan, ?_⟩
  rw [← hn]
  exact trace_of_cut_ready hplan hc hready n

/-! ### TERMINATE inside an INIT -/

/-- A cut before READY: nothing to tear down. -/
theorem teardown_init_before {p q : Int} (x : Scalar) {n : Nat} (hn : n < 5) {s : State} (h : s.lifecycle = .unbuilt) :
    let u := teardown (run ((initScript p q x).take n) s)
    u.lifecycle = .unbuilt ∧ u.trace = s.trace ++ [Event.acquire p q].take n := by
  obtain ⟨hl, -, -, htrace, -⟩ := run_take_initScript_before p q x hn s
  have hnot : (run ((initScript p q x).take n) s).lifecycle ≠ .ready := by rw [hl, h]; simp
  rw [teardown_not_ready _ hnot]
  exact ⟨hl.trans h, htrace⟩

/-- A cut from READY on: what has happened of the forcing writes and the frame, then the handler's events. -/
theorem teardown_init_ready (p q : Int) (x : Scalar) (n : Nat) (s : State) :
    let u := teardown (run ((initScript p q x).take (n + 5)) s)
    u.lifecycle = .released ∧
      u.trace = s.trace ++ (.acquire p q :: eventsOf ((initFrameScript (clampBrightness x)).take n) ++
        frameEvents blackBytes ++ [.release p q]) := by
  obtain ⟨hl, hp, hq, -, htrace⟩ := run_take_initScript_ready p q x n s
  rw [teardown_ready _ hl]
  refine ⟨rfl, ?_⟩
  simp only [htrace, hp, hq, List.append_assoc]

/-- A cut of an INIT whose pin set-up fails. -/
theorem teardown_init_fails (n : Nat) {s : State} (h : s.lifecycle = .unbuilt) :
    let u := teardown (run ([Micro.raiseEInit].take n) s)
    u.lifecycle = (if n = 0 then .unbuilt else .failed) ∧ u.trace = s.trace := by
  rw [run_take_raiseEInit]
  split
  · rw [teardown_not_ready s (by simp [h])]
    exact ⟨h, rfl⟩
  · rw [teardown_not_ready _ (by simp)]
    exact ⟨rfl, rfl⟩

/-- What the part of INIT done and the teardown leave, by the lifecycle state (R132): with UNBUILT left at most Acquire has
happened, with FAILED nothing, with RELEASED some first part of the forcing writes and the frame, and the handler. -/
theorem teardown_init_cut {p q : Int} {x : Scalar} {s : State} {ms : List Micro} (hplan : planInit p q x s = .ok ms)
    (n : Nat) :
    let u := teardown (run (ms.take n) s)
    (u.lifecycle = .unbuilt → u.trace = s.trace ∨ u.trace = s.trace ++ [.acquire p q]) ∧
      (u.lifecycle = .failed → u.trace = s.trace) ∧
      (u.lifecycle = .released → ∃ es, es <+: .w .data false :: .w .clk false :: frameEvents blackBytes ∧
        u.trace = s.trace ++ (.acquire p q :: es ++ frameEvents blackBytes ++ [.release p q])) := by
  obtain ⟨hl, -, ⟨-, rfl⟩ | ⟨-, rfl⟩⟩ := planInit_ok hplan
  · obtain hn | hn := Nat.lt_or_ge n 5
    · obtain ⟨hlife, htrace⟩ := teardown_init_before (p := p) (q := q) x hn hl
      refine ⟨fun _ => ?_, fun hfailed => ?_, fun hreleased => ?_⟩
      · rw [htrace]
        cases n with
        | zero => exact .inl (List.append_nil _)
        | succ n => exact .inr (by rw [List.take_of_length_le (by simp)])
      · rw [hlife] at hfailed; cases hfailed
      · rw [hlife] at hreleased; cases hreleased
    · obtain ⟨m, rfl⟩ := Nat.exists_eq_add_of_le' hn
      obtain ⟨hlife, htrace⟩ := teardown_init_ready p q x m s
      refine ⟨fun hunbuilt => ?_, fun hfailed => ?_, fun _ => ⟨_, ?_, htrace⟩⟩
      · rw [hlife] at hunbuilt; cases hunbuilt
      · rw [hlife] at hfailed; cases hfailed
      · rw [← eventsOf_initFrameScript (clampBrightness x)]
        exact eventsOf_take_prefix _ m
  · obtain ⟨hlife, htrace⟩ := teardown_init_fails n hl
    refine ⟨fun _ => .inl htrace, fun _ => htrace, fun hreleased => ?_⟩
    rw [hlife] at hreleased
    split at hreleased <;> cases hreleased

/-- Every count of INIT's events is that of some cut, and from the second event on the driver is torn down. -/
theorem exists_teardown_init_cut (p q : Int) (x : Scalar) {s : State} (hl : s.lifecycle = .unbuilt) {k : Nat}
    (hk : k ≤ 484) :
    ∃ n, let u := teardown (run ((initScript p q x).take n) s)
      u.trace = s.trace ++ ((.acquire p q :: .w .data false :: .w .clk false :: frameEvents blackBytes).take k ++
        if u.lifecycle = .released then frameEvents blackBytes ++ [.release p q] else []) ∧
      (2 ≤ k → u.lifecycle = .released) := by
  cases k with
  | zero =>
    obtain ⟨hlife, htrace⟩ := teardown_init_before (p := p) (q := q) x (n := 0) (by decide) hl
    refine ⟨0, ?_, by omega⟩
    rw [htrace, hlife]
    simp
  | succ j =>
    have hlength : j ≤ (eventsOf (initFrameScript (clampBrightness x))).length := by
      rw [eventsOf_initFrameScript, List.length_cons, List.length_cons, frameEvents_eq_cells, List.length_append,
        length_cells, length_wireBits]
      simp only [blackBytes, List.length_cons, List.length_nil]
      omega
    obtain ⟨m, hm⟩ := exists_take_eventsOf _ j hlength
    obtain ⟨hlife, htrace⟩ := teardown_init_ready p q x m s
    refine ⟨m + 5, ?_, fun _ => hlife⟩
    rw [htrace, hlife, hm, eventsOf_initFrameScript, if_pos rfl, List.take_succ_cons]
    simp only [List.append_assoc]

/-- Settles O44: a cut of INIT runs a first part of its plan and the hook. -/
theorem terminateDuringInit : Obligations.TerminateDuringInit := by
  intro s rest c p q x hp hl hd hpq cut
  have hcut (n : Nat) {ms : List Micro} (hplan : planInit p q x { s with inputs := rest } = .ok ms) :
      cut n = .next (teardown (run (ms.take n) { s with inputs := rest })) :=
    step_commandCut (s := { s with inputs := .commandCut c n false :: rest }) hp rfl hd nofun hplan
  have hgranted (hg : pinsGranted p q s = true) : planInit p q x { s with inputs := rest } = .ok (initScript p q x) :=
    planInit_granted x hl hpq hg
  have hfails (hg : pinsGranted p q s = false) : planInit p q x { s with inputs := rest } = .ok [.raiseEInit] :=
    planInit_not_granted x hl hpq hg
  refine ⟨fun n => ?every, fun hg k hk => ?counts, fun hg => ?fails⟩
  case every =>
    obtain ⟨ms, hplan⟩ : ∃ ms, planInit p q x { s with inputs := rest } = .ok ms := by
      cases hg : pinsGranted p q s with
      | true => exact ⟨_, hgranted hg⟩
      | false => exact ⟨_, hfails hg⟩
    exact ⟨_, hcut n hplan, runFinished_teardown _, teardown_init_cut hplan n⟩
  case counts =>
    obtain ⟨n, htrace, hlife⟩ := exists_teardown_init_cut p q x (s := { s with inputs := rest }) hl hk
    exact ⟨n, _, hcut n (hgranted hg), htrace, hlife⟩
  case fails =>
    obtain ⟨hlife, -⟩ := teardown_init_fails 1 (s := { s with inputs := rest }) hl
    exact ⟨1, _, hcut 1 (hfails hg), hlife⟩

end Sys2Proof.Machine

/-! The outcomes of the table after R121 (60_exceptions.md): when each is the outcome of an operation, and what the host is
told of it. -/

namespace Sys2Proof.Machine

/-! ### The code of an emission -/

theorem emissionCode_one (q : Scalar) (c : Colour) : clampCode (emissionCode q [c]) (clampsChannel q c) := by
  have h := emissionCode_clampCode q [c]
  simpa using h

theorem emissionCode_cases (q : Scalar) (cs : List Colour) : emissionCode q cs = .oClamp ∨ emissionCode q cs = .ok := by
  unfold emissionCode
  split
  · exact .inl rfl
  · exact .inr rfl

/-- All three channels lie in 0..255 before they are scaled. -/
def channelsInRange (c : Colour) : Prop :=
  (0 ≤ c.r ∧ c.r ≤ 255) ∧ (0 ≤ c.g ∧ c.g ≤ 255) ∧ (0 ≤ c.b ∧ c.b ≤ 255)

theorem channelClamped_of_in_range {q : Scalar} (h0 : 0 ≤ q) (h1 : q ≤ 1) {c : Int} (hc0 : 0 ≤ c) (hc1 : c ≤ 255) :
    channelClamped q c = false := by
  obtain ⟨hbounds, -⟩ := scaledChannelBounds c q h0 h1
  obtain ⟨hlow, hhigh⟩ := hbounds hc0
  rw [channelClamped, decide_eq_false (by omega), decide_eq_false (by omega)]
  rfl

/-- At a legal brightness nothing in range is clamped (R120). -/
theorem emissionCode_of_in_range {q : Scalar} (h0 : 0 ≤ q) (h1 : q ≤ 1) {cs : List Colour}
    (h : ∀ c ∈ cs, channelsInRange c) : emissionCode q cs = .ok := by
  have hnone : ¬ cs.any (colourClamped q) = true := by
    rw [List.any_eq_true]
    rintro ⟨c, hc, hclamped⟩
    obtain ⟨⟨hr0, hr1⟩, ⟨hg0, hg1⟩, ⟨hb0, hb1⟩⟩ := h c hc
    rw [colourClamped, channelClamped_of_in_range h0 h1 hr0 hr1, channelClamped_of_in_range h0 h1 hg0 hg1,
      channelClamped_of_in_range h0 h1 hb0 hb1] at hclamped
    cases hclamped
  rw [emissionCode, if_neg hnone]

theorem palette_in_range : ∀ c ∈ palette, channelsInRange c := by
  unfold channelsInRange
  decide

theorem rainbowColours_in_range (cycles : Int) : ∀ c ∈ rainbowColours cycles, channelsInRange c := by
  intro c hc
  obtain ⟨i, hi, rfl⟩ := List.mem_map.1 hc
  obtain ⟨l, hl, hil⟩ := List.mem_flatten.1 hi
  obtain rfl := List.eq_of_mem_replicate hl
  have hlt := List.mem_range.1 hil
  exact wheel_range (by omega) (by omega)

/-! ### Rows of the table -/

theorem outcomeOf_init_granted {p q : Int} {s : State} (x : Scalar) (hg : pinsGranted p q s = true) :
    outcomeOf (.init p q x) s = if brightnessClamped x then .oClamp else .ok := by
  rw [outcomeOf, hg, if_pos rfl]

theorem outcomeOf_init_not_granted {p q : Int} {s : State} (x : Scalar) (hg : pinsGranted p q s = false) :
    outcomeOf (.init p q x) s = .eInit := by
  rw [outcomeOf, hg, if_neg Bool.false_ne_true]

theorem outcomeOf_init_ne_eInit {p q : Int} {s : State} (x : Scalar) (hg : pinsGranted p q s = true) :
    outcomeOf (.init p q x) s ≠ .eInit := by
  rw [outcomeOf_init_granted x hg]
  split <;> simp

/-- E_INIT, and O_CLAMP of INIT (R80, R81). -/
theorem outcome_init {p q : Int} (x : Scalar) {s : State} (h : s.lifecycle = .unbuilt) (hpq : p ≠ q) :
    ∃ t, exec (.init p q x) s = .next t ∧
      (outcomeOf (.init p q x) s = .eInit ↔
        s.pinSetupOk = false ∨ pinIn p s.validPins = false ∨ pinIn q s.validPins = false) ∧
      (outcomeOf (.init p q x) s = .eInit → t.lifecycle = .failed ∧ t.reply = .raised .eInit ∧ t.trace = s.trace) ∧
      (outcomeOf (.init p q x) s ≠ .eInit →
        clampCode (outcomeOf (.init p q x) s) (x < 0 ∨ 1 < x) ∧ t.brightness = max 0 (min 1 x) ∧ t.reply = .done) := by
  rw [← pinsGranted_eq_false]
  cases hg : pinsGranted p q s with
  | false =>
    have hcode := outcomeOf_init_not_granted x hg
    exact ⟨_, exec_init_not_granted x h hpq hg, by simp [hcode], fun _ => ⟨rfl, rfl, rfl⟩, fun hne => absurd hcode hne⟩
  | true =>
    have hne := outcomeOf_init_ne_eInit x hg
    refine ⟨_, exec_init_granted x h hpq hg, by simp [hne], fun he => absurd he hne, fun _ => ?_⟩
    rw [outcomeOf_init_granted x hg, run_initScript, ← clampBrightness_eq_max_min]
    exact ⟨brightnessCode_clampCode x, rfl, rfl⟩

theorem outcomeOf_setColor_valid (r g b : Int) {index : Int} {s : State} (hi : indexValid index s.ledCount = true) :
    outcomeOf (.setColor r g b index) s = emissionCode s.brightness [⟨r, g, b⟩] := by
  rw [outcomeOf, hi, if_pos rfl]

theorem outcomeOf_setColor_invalid (r g b : Int) {index : Int} {s : State} (hi : indexValid index s.ledCount = false) :
    outcomeOf (.setColor r g b index) s = .oIndex := by
  rw [outcomeOf, hi, if_neg Bool.false_ne_true]

theorem outcomeOf_setColor_eq_oIndex {r g b index : Int} {s : State} :
    outcomeOf (.setColor r g b index) s = .oIndex ↔ indexValid index s.ledCount = false := by
  cases hi : indexValid index s.ledCount with
  | false => simp [outcomeOf_setColor_invalid r g b hi]
  | true =>
    rw [outcomeOf_setColor_valid r g b hi]
    obtain he | he := emissionCode_cases s.brightness [⟨r, g, b⟩] <;> simp [he]

/-- O_INDEX, and O_CLAMP of SET_COLOR (R84). -/
theorem outcome_setColor (r g b index : Int) {s : State} (h : s.lifecycle = .ready) :
    (outcomeOf (.setColor r g b index) s = .oIndex ↔ index < 0 ∨ s.ledCount ≤ index) ∧
    (0 ≤ index → index < s.ledCount →
      clampCode (outcomeOf (.setColor r g b index) s) (clampsChannel s.brightness ⟨r, g, b⟩)) ∧
    ∃ t, exec (.setColor r g b index) s = .next t ∧
      (t.reply = .bool false ↔ outcomeOf (.setColor r g b index) s = .oIndex) ∧
      (outcomeOf (.setColor r g b index) s = .oIndex → t = { s with reply := t.reply }) := by
  rw [outcomeOf_setColor_eq_oIndex, indexValid_eq_false]
  refine ⟨Iff.rfl, fun h0 h1 => ?_, _, exec_setColor_ready r g b index h, ?_, fun hbad => ?_⟩
  · rw [outcomeOf_setColor_valid r g b (indexValid_iff.2 ⟨h0, h1⟩)]
    exact emissionCode_one _ _
  · rw [← indexValid_eq_false]
    exact ⟨Reply.bool.inj, congrArg Reply.bool⟩
  · rw [setColorScript_invalid (indexValid_eq_false.2 hbad), run_nil]

theorem outcomeOf_setColorHex_malformed {str : List Char} (s : State) (hp : parseHex str = none) :
    outcomeOf (.setColorHex str) s = .oIgnore := by
  rw [outcomeOf, hp]

theorem outcomeOf_setColorHex_wellFormed {str : List Char} {c : Colour} (s : State) (hp : parseHex str = some c) :
    outcomeOf (.setColorHex str) s = emissionCode s.brightness [c] := by
  rw [outcomeOf, hp]

theorem outcomeOf_setColorHex_eq_oIgnore {str : List Char} {s : State} :
    outcomeOf (.setColorHex str) s = .oIgnore ↔ parseHex str = none := by
  cases hp : parseHex str with
  | none => simp [outcomeOf_setColorHex_malformed s hp]
  | some c =>
    rw [outcomeOf_setColorHex_wellFormed s hp]
    obtain he | he := emissionCode_cases s.brightness [c] <;> simp [he]

/-- O_IGNORE, and O_CLAMP of SET_COLOR_HEX (R85). -/
theorem outcome_setColorHex (str : List Char) {s : State} (h : s.lifecycle = .ready) :
    (outcomeOf (.setColorHex str) s = .oIgnore ↔ parseHex str = none) ∧
    (∀ c, parseHex str = some c → clampCode (outcomeOf (.setColorHex str) s) (clampsChannel s.brightness c)) ∧
    (∃ t, exec (.setColorHex str) s = .next t ∧ t.reply = .done) ∧
    (outcomeOf (.setColorHex str) s = .oIgnore → exec (.setColorHex str) s = .next { s with reply := .done }) := by
  refine ⟨outcomeOf_setColorHex_eq_oIgnore, fun c hp => ?_, ?_, fun hi =>
    exec_setColorHex_malformed h (outcomeOf_setColorHex_eq_oIgnore.1 hi)⟩
  · rw [outcomeOf_setColorHex_wellFormed s hp]
    exact emissionCode_one _ _
  · cases hp : parseHex str with
    | none => exact ⟨_, exec_setColorHex_malformed h hp, rfl⟩
    | some c => exact ⟨_, exec_setColorHex_wellFormed h hp, rfl⟩

/-- Whatever completes with O_CLAMP reports no failure (R123). -/
theorem reply_of_oClamp {i : Instr} {s t : State} (h : exec i s = .next t) (ho : outcomeOf i s = .oClamp) :
    t.reply = .done ∨ t.reply = .bool true ∨ ∃ x, i = .setBrightness x ∧ t.reply = .scalar (max 0 (min 1 x)) := by
  rw [reply_of_exec h]
  cases i with
  | sendBit | sendByte | latch | getStatus => cases ho
  | init p q x =>
    left
    cases hg : pinsGranted p q s with
    | false => rw [outcomeOf_init_not_granted x hg] at ho; cases ho
    | true => rw [replyOf, hg]; rfl
  | setBrightness x => exact .inr (.inr ⟨x, rfl, by rw [replyOf, clampBrightness_eq_max_min]⟩)
  | setColor r g b index =>
    right; left
    cases hi : indexValid index s.ledCount with
    | false => rw [outcomeOf_setColor_invalid r g b hi] at ho; cases ho
    | true => rw [replyOf, hi]
  | _ => exact .inl rfl

/-- What emits no colour of the host's has OK at a legal brightness. -/
theorem outcomeOf_ok {i : Instr} {s : State} (h0 : 0 ≤ s.brightness) (h1 : s.brightness ≤ 1)
    (hi : i.hostIssued = false ∨ i = .clear ∨ i = .getStatus ∨ i = .cleanup ∨ (∃ d, i = .demoSequence d) ∨
      (∃ n d, i = .rainbow n d) ∨ ∃ d e, i = .policeLights d e) : outcomeOf i s = .ok := by
  obtain hi | rfl | rfl | rfl | ⟨d, rfl⟩ | ⟨n, d, rfl⟩ | ⟨d, e, rfl⟩ := hi
  · cases i with
    | sendBit | sendByte | latch => rfl
    | _ => cases hi
  · rfl
  · rfl
  · rfl
  · exact emissionCode_of_in_range h0 h1 palette_in_range
  · exact emissionCode_of_in_range h0 h1 (rainbowColours_in_range n)
  · rfl

/-- Settles O55: row by row. -/
theorem outcomesReachTheHostAsTheTableSays : Obligations.OutcomesReachTheHostAsTheTableSays := by
  refine ⟨rfl, fun p q x s h hpq => outcome_init x h hpq, fun x s h => ⟨brightnessCode_clampCode x, ?_⟩,
    fun r g b s h => ⟨emissionCode_one _ _, _, exec_emitPixel_ready r g b h, rfl⟩,
    fun r g b index s h => outcome_setColor r g b index h, fun str s h => outcome_setColorHex str h,
    fun r g b cycles d s => emissionCode_clampCode _ _, fun c1 c2 steps d s => emissionCode_clampCode _ _,
    fun i s t h ho => reply_of_oClamp h ho, fun i s h0 h1 hi => outcomeOf_ok h0 h1 hi⟩
  rw [exec_setBrightness_ready x h, clampBrightness_eq_max_min]

end Sys2Proof.Machine
